-- ==== Sys2Proof/Word.lean ====
section
/-! DEFINITION. The word types of the WireCodec block: bytes, byte strings, the 16-bit command word and the 32-bit
operand and result word. -/

namespace Sys2Proof

/-- A byte, an integer 0..255 (00_scope.md R11). -/
abbrev Byte := BitVec 8

/-- A byte string: a finite sequence of bytes, byte 0 first (00_scope.md R11). -/
abbrev Bytes := List Byte

/-- The command word `cmd`: 16 bits, `CMD_W` (00_scope.md R7, 30_encoding.md R59). -/
abbrev CmdWord := BitVec 16

/-- The argument word `arg` and the result word `rval`: 32 bits, `ARG_W` and `RVAL_W` (00_scope.md R7). -/
abbrev Word := BitVec 32

end Sys2Proof
end

