-- ==== Sys2Proof/Config.lean ====
section
/-! DEFINITION. The implementation parameters of 00_scope.md R7. -/

namespace Sys2Proof.Config

/-- `HDR_LEN`: bytes in the fixed frame header (00_scope.md R7). -/
abbrev hdrLen : Nat := 20

/-- `ADDR_LEN`: bytes in each of source_id and dest_id (00_scope.md R7). -/
abbrev addrLen : Nat := 8

/-- `MAX_PAYLOAD`: the largest payload, in bytes (00_scope.md R7). -/
abbrev maxPayload : Nat := 1024

/-- `MAX_FRAME = HDR_LEN + MAX_PAYLOAD`: the largest frame (00_scope.md R7, R8). -/
abbrev maxFrame : Nat := hdrLen + maxPayload

/-- `PAD_BYTE`: the address padding byte, the space 0x20 (00_scope.md R7; 93_implementation_defined.md K1; log 16). -/
abbrev padByte : Byte := 0x20#8

/-- `DIN_MAX`: the largest byte-string operand (00_scope.md R7, 30_encoding.md R65). -/
abbrev dinMax : Nat := 65535

/-- `LATENCY` (00_scope.md R7, 70_reset_and_hazards.md R152, P1): the time from accept to response, of a command word and
the lengths of `din` and `dout`. OPEN in the spec; no rule and no definition of the model reads it (log 12). -/
opaque latency : CmdWord → Nat → Nat → Nat

/-- `BUS_PROTOCOL` (00_scope.md R7, 30_encoding.md R58, P2): a number that stands for the signal-level handshake and
byte-streaming protocol. OPEN in the spec; no rule and no definition of the model reads it (log 12). -/
opaque busProtocol : Nat

end Sys2Proof.Config
end

