-- ==== Sys2Proof/Syntax.lean ====
section
/-! DEFINITION. The commands of the block: the 30 commands of the opcode map (30_encoding.md R69) as one inductive, the
fields of the command word (R59), the command triple (R58), the flag names (10_state.md R24) and the pseudo-instructions
(30_encoding.md R77). -/

namespace Sys2Proof

/-- The field `r`: which packet register a command reads or writes (30_encoding.md R59, R60). -/
inductive PReg where
  /-- `r = 0`: `P[0]`. -/
  | p0
  /-- `r = 1`: `P[1]`. -/
  | p1
deriving DecidableEq, Repr

/-- The 30 commands of the opcode map, in the order of spec/opcode_table.json. A field that a command uses is an
argument: `r` a packet register, `v` the one-bit value (30_encoding.md R61), `idx` the flag index, 0 = GROUP = the most
significant bit of the flag byte (R62). -/
inductive Instr where
  | nop
  | cfgSetAddr
  | cfgSetPort
  | cfgSetFmt (v : Bool)
  | cfgGetAddr
  | cfgGetPort
  | cfgGetFmt
  | new (r : PReg)
  | make (r : PReg)
  | setSrc (r : PReg)
  | setDst (r : PReg)
  | setPort (r : PReg)
  | setFlags (r : PReg)
  | setPayload (r : PReg)
  | setFlag (r : PReg) (v : Bool) (idx : BitVec 3)
  | getSrc (r : PReg)
  | getDst (r : PReg)
  | getPort (r : PReg)
  | getFlags (r : PReg)
  | getLen (r : PReg)
  | getPayload (r : PReg)
  | getFlag (r : PReg) (idx : BitVec 3)
  | getValid (r : PReg)
  | encode (r : PReg)
  | decode (r : PReg)
  | rx (r : PReg) (v : Bool)
  | matchFilter (r : PReg)
  | xbegin
  | xnext
  | xstat
deriving DecidableEq, Repr

/-- The fields of a command word, raw, as 30_encoding.md R59 lays them out. -/
structure CmdFields where
  /-- bits 15:10, the opcode -/
  op : BitVec 6
  /-- bit 9, the packet register select -/
  r : Bool
  /-- bit 8, the one-bit value operand -/
  v : Bool
  /-- bits 7:3, reserved -/
  rsv : BitVec 5
  /-- bits 2:0, the flag index -/
  idx : BitVec 3
deriving DecidableEq, Repr

/-- A command: the triple `(cmd, arg, din)` (30_encoding.md R58). -/
structure Command where
  /-- `cmd`, the 16-bit command word -/
  word : CmdWord
  /-- `arg`, the 32-bit two's-complement argument word -/
  arg : Word
  /-- `din`, the byte-string operand -/
  din : Bytes
deriving DecidableEq, Repr

/-- The eight named flags, by the source's flag index 0 to 7 (10_state.md R24). -/
inductive FlagName where
  | group
  | checksum
  | signature
  | key
  | encoding
  | formatting
  | encryption
  | subheader
deriving DecidableEq, Repr

/-- The pseudo-instructions of 30_encoding.md R77: the eight `IS_<flag>`, the eight `SET_<flag>`, RXA and RXF. -/
inductive Pseudo where
  /-- `IS_<flag> pR` -/
  | isNamed (f : FlagName) (r : PReg)
  /-- `SET_<flag> pR, V` -/
  | setNamed (f : FlagName) (r : PReg) (v : Bool)
  /-- `RXA pR`, promiscuous reception -/
  | rxa (r : PReg)
  /-- `RXF pR`, filtered reception -/
  | rxf (r : PReg)
deriving DecidableEq, Repr

end Sys2Proof
end

