-- ==== Sys2Proof/WellFormed.lean ====
section
/-! DEFINITION. What a well-formed command is: the legality of a command word, field by field (30_encoding.md R70, read
off the columns of R69 and not off the decoder), and the bound on `din` (R65). The operands of an `Instr` are typed so
that each admits exactly the values its encoding admits (two registers, one bit, three bits): every `Instr` is well
formed, and a command word is where a check can fail. -/

namespace Sys2Proof

/-- The opcode is one of the thirty of R69: not 0x07 and not 0x1F..0x3F. -/
def CmdFields.opAssigned (f : CmdFields) : Bool :=
  f.op ≠ 0x07#6 && f.op.toNat < 0x1F

/-- R69's column `r`: NEW to XSTAT but for the grouping commands, that is 0x08..0x1B. -/
def CmdFields.usesR (f : CmdFields) : Bool :=
  0x08 ≤ f.op.toNat && f.op.toNat ≤ 0x1B

/-- R69's column `v`: CFG_SET_FMT (0x03), SET_FLAG (0x0F), RX (0x1A). -/
def CmdFields.usesV (f : CmdFields) : Bool :=
  f.op == 0x03#6 || f.op == 0x0F#6 || f.op == 0x1A#6

/-- R69's column `idx`: SET_FLAG (0x0F) and GET_FLAG (0x16). -/
def CmdFields.usesIdx (f : CmdFields) : Bool :=
  f.op == 0x0F#6 || f.op == 0x16#6

/-- Check 2 of R70: the reserved bits are 0. -/
def CmdFields.rsvClear (f : CmdFields) : Bool :=
  f.rsv == 0#5

/-- Check 3 of R70: `r` is 0 unless the command uses it. -/
def CmdFields.rOk (f : CmdFields) : Bool :=
  f.usesR || !f.r

/-- Check 4 of R70: `v` is 0 unless the command uses it. -/
def CmdFields.vOk (f : CmdFields) : Bool :=
  f.usesV || !f.v

/-- Check 5 of R70: `idx` is 0 unless the command uses it. -/
def CmdFields.idxOk (f : CmdFields) : Bool :=
  f.usesIdx || f.idx == 0#3

/-- A legal command word, none of the five conditions of 30_encoding.md R70 holding. -/
def CmdFields.wellFormed (f : CmdFields) : Bool :=
  f.opAssigned && f.rsvClear && f.rOk && f.vOk && f.idxOk

/-- A command that can be issued: `din` is at most `DIN_MAX` bytes (30_encoding.md R65; P9). -/
def Command.wellFormed (c : Command) : Bool :=
  c.din.length ≤ Config.dinMax

end Sys2Proof
end

