-- ==== Sys2Proof/Decode.lean ====
section
/-! DEFINITION. Decoding a command word (30_encoding.md R59, R69, R70), total on every word; then encoding, and the
expansion of the pseudo-instructions (R77). A command word moves whole, as an integer, and has no byte order (20_memory.md
R44), so the decoder takes the 16-bit word itself (log 23). -/

namespace Sys2Proof

/-- Why a command word is illegal: the five conditions of 30_encoding.md R70. The response does not tell them apart
(R71), so which of several is named is of no effect (log 15). -/
inductive Illegal where
  /-- `op` is reserved -/
  | reservedOpcode
  /-- `rsv != 0` -/
  | reservedBits
  /-- `r != 0` and the command does not use `r` -/
  | unusedR
  /-- `v != 0` and the command does not use `v` -/
  | unusedV
  /-- `idx != 0` and the command does not use `idx` -/
  | unusedIdx
deriving DecidableEq, Repr

/-- What the decoder answers: a command, or a rejection by name. -/
inductive Decoded where
  | legal (i : Instr)
  | illegal (why : Illegal)
deriving DecidableEq, Repr

/-- Field `op` = `cmd[15:10]` (30_encoding.md R59). -/
def opField (w : CmdWord) : BitVec 6 := w.extractLsb' 10 6

/-- Field `r` = `cmd[9]` (30_encoding.md R59, R74). -/
def rField (w : CmdWord) : Bool := w.getLsbD 9

/-- Field `v` = `cmd[8]` (30_encoding.md R59, R74). -/
def vField (w : CmdWord) : Bool := w.getLsbD 8

/-- Field `rsv` = `cmd[7:3]` (30_encoding.md R59, R63). -/
def rsvField (w : CmdWord) : BitVec 5 := w.extractLsb' 3 5

/-- Field `idx` = `cmd[2:0]` (30_encoding.md R59, R74). -/
def idxField (w : CmdWord) : BitVec 3 := w.extractLsb' 0 3

/-- The fields of a command word (30_encoding.md R59). -/
def fieldsOf (w : CmdWord) : CmdFields :=
  { op := opField w, r := rField w, v := vField w, rsv := rsvField w, idx := idxField w }

/-- The register that the bit `r` selects: 0 = `P[0]`, 1 = `P[1]` (30_encoding.md R59). -/
def pregOfBit (b : Bool) : PReg := if b then .p1 else .p0

/-- The bit `r` of a register (30_encoding.md R59). -/
def bitOfPReg : PReg → Bool
  | .p0 => false
  | .p1 => true

/-- Conditions 2 to 5 of 30_encoding.md R70 for a command that uses `r`, `v`, `idx` as the flags say. -/
def legalWhen (useR useV useIdx : Bool) (f : CmdFields) (i : Instr) : Decoded :=
  if f.rsv ≠ 0#5 then .illegal .reservedBits
  else if f.r && !useR then .illegal .unusedR
  else if f.v && !useV then .illegal .unusedV
  else if f.idx ≠ 0#3 && !useIdx then .illegal .unusedIdx
  else .legal i

/-- The opcode map (30_encoding.md R69), with its columns `r`, `v` and `idx`; every other opcode is reserved. -/
def decodeFields (f : CmdFields) : Decoded :=
  let r := pregOfBit f.r
  match f.op.toNat with
  | 0x00 => legalWhen false false false f .nop
  | 0x01 => legalWhen false false false f .cfgSetAddr
  | 0x02 => legalWhen false false false f .cfgSetPort
  | 0x03 => legalWhen false true false f (.cfgSetFmt f.v)
  | 0x04 => legalWhen false false false f .cfgGetAddr
  | 0x05 => legalWhen false false false f .cfgGetPort
  | 0x06 => legalWhen false false false f .cfgGetFmt
  | 0x08 => legalWhen true false false f (.new r)
  | 0x09 => legalWhen true false false f (.make r)
  | 0x0A => legalWhen true false false f (.setSrc r)
  | 0x0B => legalWhen true false false f (.setDst r)
  | 0x0C => legalWhen true false false f (.setPort r)
  | 0x0D => legalWhen true false false f (.setFlags r)
  | 0x0E => legalWhen true false false f (.setPayload r)
  | 0x0F => legalWhen true true true f (.setFlag r f.v f.idx)
  | 0x10 => legalWhen true false false f (.getSrc r)
  | 0x11 => legalWhen true false false f (.getDst r)
  | 0x12 => legalWhen true false false f (.getPort r)
  | 0x13 => legalWhen true false false f (.getFlags r)
  | 0x14 => legalWhen true false false f (.getLen r)
  | 0x15 => legalWhen true false false f (.getPayload r)
  | 0x16 => legalWhen true false true f (.getFlag r f.idx)
  | 0x17 => legalWhen true false false f (.getValid r)
  | 0x18 => legalWhen true false false f (.encode r)
  | 0x19 => legalWhen true false false f (.decode r)
  | 0x1A => legalWhen true true false f (.rx r f.v)
  | 0x1B => legalWhen true false false f (.matchFilter r)
  | 0x1C => legalWhen false false false f .xbegin
  | 0x1D => legalWhen false false false f .xnext
  | 0x1E => legalWhen false false false f .xstat
  | _ => .illegal .reservedOpcode

/-- The decoder: one 16-bit word per command (30_encoding.md R73). -/
def decode (w : CmdWord) : Decoded := decodeFields (fieldsOf w)

/-- `cmd = op << 10 | r << 9 | v << 8 | rsv << 3 | idx` (30_encoding.md R59). -/
def wordOfFields (f : CmdFields) : CmdWord :=
  f.op.setWidth 16 <<< 10 ||| (BitVec.ofBool f.r).setWidth 16 <<< 9 ||| (BitVec.ofBool f.v).setWidth 16 <<< 8
    ||| f.rsv.setWidth 16 <<< 3 ||| f.idx.setWidth 16

/-- The fields of a command that uses none of `r`, `v`, `idx`: each is 0 (30_encoding.md R68). -/
def plainFields (op : BitVec 6) : CmdFields :=
  { op := op, r := false, v := false, rsv := 0#5, idx := 0#3 }

/-- The fields of a command that uses `r` alone. -/
def regFields (op : BitVec 6) (r : PReg) : CmdFields :=
  { plainFields op with r := bitOfPReg r }

/-- The fields of a command's word, written from the opcode map (30_encoding.md R69). -/
def fieldsOfInstr : Instr → CmdFields
  | .nop => plainFields 0x00
  | .cfgSetAddr => plainFields 0x01
  | .cfgSetPort => plainFields 0x02
  | .cfgSetFmt v => { plainFields 0x03 with v := v }
  | .cfgGetAddr => plainFields 0x04
  | .cfgGetPort => plainFields 0x05
  | .cfgGetFmt => plainFields 0x06
  | .new r => regFields 0x08 r
  | .make r => regFields 0x09 r
  | .setSrc r => regFields 0x0A r
  | .setDst r => regFields 0x0B r
  | .setPort r => regFields 0x0C r
  | .setFlags r => regFields 0x0D r
  | .setPayload r => regFields 0x0E r
  | .setFlag r v idx => { regFields 0x0F r with v := v, idx := idx }
  | .getSrc r => regFields 0x10 r
  | .getDst r => regFields 0x11 r
  | .getPort r => regFields 0x12 r
  | .getFlags r => regFields 0x13 r
  | .getLen r => regFields 0x14 r
  | .getPayload r => regFields 0x15 r
  | .getFlag r idx => { regFields 0x16 r with idx := idx }
  | .getValid r => regFields 0x17 r
  | .encode r => regFields 0x18 r
  | .decode r => regFields 0x19 r
  | .rx r v => { regFields 0x1A r with v := v }
  | .matchFilter r => regFields 0x1B r
  | .xbegin => plainFields 0x1C
  | .xnext => plainFields 0x1D
  | .xstat => plainFields 0x1E

/-- The encoder: the command word of a command (30_encoding.md R59, R69). -/
def encode (i : Instr) : CmdWord := wordOfFields (fieldsOfInstr i)

/-- The source's flag index of a named flag (10_state.md R24). -/
def FlagName.index : FlagName → BitVec 3
  | .group => 0
  | .checksum => 1
  | .signature => 2
  | .key => 3
  | .encoding => 4
  | .formatting => 5
  | .encryption => 6
  | .subheader => 7

/-- The expansion of a pseudo-instruction (30_encoding.md R77). -/
def expandPseudo : Pseudo → Instr
  | .isNamed f r => .getFlag r f.index
  | .setNamed f r v => .setFlag r v f.index
  | .rxa r => .rx r false
  | .rxf r => .rx r true

/-- The word of an opcode-table row's `nbits` bits, every bit above them 0. -/
def tableWord (nbits w : Nat) : CmdWord := BitVec.ofNat 16 (w % 2 ^ nbits)

/-- The command the decoder reads from an opcode-table word of `nbits` bits; none where the word is illegal. -/
def decodeTableWord (nbits w : Nat) : Option Instr :=
  match decode (tableWord nbits w) with
  | .legal i => some i
  | .illegal _ => none

end Sys2Proof
end

