-- ==== Sys2Proof/Machine/State.lean ====
section
/-! DEFINITION. The state of the block (10_state.md), the responses and the host's events, the reasons a step can stop,
and the state after reset (10_state.md R34). -/

namespace Sys2Proof.Machine

/-- An address: exactly 8 bytes, padding included (10_state.md R19, R25). Every value of the 8 bytes is legal. -/
@[ext] structure Addr where
  /-- the raw bytes, the first character at index 0 -/
  bytes : Bytes
  size : bytes.length = 8
deriving DecidableEq, Repr

/-- The blank address: eight padding bytes (10_state.md R22). -/
def Addr.blank : Addr := { bytes := List.replicate 8 Config.padByte, size := rfl }

/-- A packet value (00_scope.md R14, 10_state.md R19). Its length LEN is the length of `pay` and is not stored (R20). -/
@[ext] structure Packet where
  /-- VALID: 1 = valid, 0 = empty -/
  valid : Bool
  /-- SRC, the source address -/
  src : Addr
  /-- DST, the destination address -/
  dst : Addr
  /-- PORT -/
  port : BitVec 8
  /-- FLAGS; flag index i is bit 7 - i (10_state.md R24) -/
  flags : BitVec 8
  /-- PAY, the payload: at most 1024 bytes in every reachable state (10_state.md R21) -/
  pay : Bytes
deriving DecidableEq, Repr

/-- `EMPTY_PKT`, the sentinel of a failed parse (10_state.md R22). -/
def emptyPkt : Packet :=
  { valid := false, src := Addr.blank, dst := Addr.blank, port := 0#8, flags := 0#8, pay := [] }

/-- `CFG_FMT`, one bit: 0 = STRUCTURED, 1 = LEGACY (10_state.md R27). -/
inductive Format where
  | structured
  | legacy
deriving DecidableEq, Repr

/-- The status of a response (30_encoding.md R67). The reserved codes 5..14 are never produced and have no constructor. -/
inductive Status where
  /-- 0: command done -/
  | ok
  /-- 1: a decode failed and the empty sentinel was written or delivered -/
  | empty
  /-- 2: filtered RX, the reception does not match; nothing delivered -/
  | discard
  /-- 3: RX given an empty reception -/
  | nothing
  /-- 4 (END): the scan has no further sub-packet -/
  | scanEnd
  /-- 15: the command word is not a legal encoding -/
  | illegal
deriving DecidableEq, Repr

/-- A response: the triple `(status, rval, dout)` (30_encoding.md R58). -/
structure Response where
  status : Status
  /-- the 32-bit result word -/
  rval : Word
  /-- the byte-string result, at most 1044 bytes in every reachable state -/
  dout : Bytes
deriving DecidableEq, Repr

/-- What the host does next at the block's ports (10_state.md R16; 70_reset_and_hazards.md R143, R144; log 1, log 6). -/
inductive HostEvent where
  /-- The host presents a command at the command port. -/
  | command (c : Command)
  /-- The reset input is asserted between two commands. -/
  | assertReset
  /-- The reset input is asserted while the command `c` is executing. -/
  | assertResetDuring (c : Command)
  /-- The reset input is released. -/
  | releaseReset
deriving DecidableEq, Repr

/-- The block's architectural state, exactly the table of 10_state.md R17. -/
@[ext] structure Block where
  /-- `P[0]` -/
  p0 : Packet
  /-- `P[1]` -/
  p1 : Packet
  /-- `CFG_ADDR`, the local address -/
  cfgAddr : Addr
  /-- `CFG_PORT`, the local port -/
  cfgPort : BitVec 8
  /-- `CFG_FMT`, the flag-format variant -/
  cfgFmt : Format
  /-- `SCAN_ACTIVE` -/
  scanActive : Bool
  /-- `SCAN_OFF` -/
  scanOff : BitVec 11
deriving DecidableEq, Repr

/-- The machine: the block's state, and the model's own fields for the two ports and the host's side. The own fields are
no state of the block: nothing of them is read by a later command (10_state.md R17, R32). -/
@[ext]
structure State extends Block where
  /-- `arg` of the command being executed; 0 between commands (30_encoding.md R64; log 5) -/
  arg : Word
  /-- `din` of the command being executed; empty between commands (30_encoding.md R65; log 5) -/
  din : Bytes
  /-- the level of the reset input: true while it is asserted (70_reset_and_hazards.md R143; log 6) -/
  inReset : Bool
  /-- the host's events still to come, the next one first (10_state.md R30; log 1) -/
  inbox : List HostEvent
  /-- the responses given so far, oldest first (70_reset_and_hazards.md R153; log 1) -/
  responses : List Response
deriving DecidableEq, Repr

/-- The block has no faults: no command raises an exception, and the block cannot end in a faulted or stuck state
(60_exceptions.md R129). So this type has no constructor and nothing raises one (log 11); safe. -/
inductive Fault where
deriving DecidableEq, Repr

/-- The reasons the model refuses. -/
inductive Refusal where
  /-- Raised by an arm of `exec` whose instruction has no meaning in the model. No arm does so; it would be safe. -/
  | notModelled (mnemonic : String)
  /-- Raised by the command port for a command whose `din` is longer than `DIN_MAX` = 65535 bytes: it cannot be issued
  (93_implementation_defined.md P9, treatment `refuse`; log 4); safe. -/
  | dinTooLong
deriving DecidableEq, Repr

/-- The outcome of a command or a step. -/
abbrev Result := Host.Outcome State Fault Refusal

/-- The block's state after reset (10_state.md R34). -/
def Block.reset : Block :=
  { p0 := emptyPkt, p1 := emptyPkt, cfgAddr := Addr.blank, cfgPort := 0#8, cfgFmt := .structured,
    scanActive := false, scanOff := 0#11 }

/-- The machine after reset: the block as 10_state.md R34 says, the reset input released, no command in execution, no
event of the host's pending and no response given (log 2, log 5). -/
def State.reset : State :=
  { toBlock := Block.reset, arg := 0#32, din := [], inReset := false, inbox := [], responses := [] }

end Sys2Proof.Machine
end

