-- ==== Sys2Proof/Machine/Ops.lean ====
section
/-! DEFINITION. The named operations over byte strings, packet registers, the scan cursor, the response and the ports. The
block has no addressed memory (20_memory.md R36; log 10) and takes no exception (60_exceptions.md R129, R134; log 11): its
one answer to a bad command word is the response ILLEGAL (30_encoding.md R71). -/

namespace Sys2Proof.Machine

/-- `b[i..j)`, the bytes i to j-1; used with `i <= j <= |b|` (00_scope.md R11). -/
def slice (b : Bytes) (i j : Nat) : Bytes := (b.take j).drop i

/-- `b[k]`, byte k; used with `k < |b|` (00_scope.md R11). -/
def byteAt (b : Bytes) (k : Nat) : Byte := b.getD k 0#8

/-- `256 * b[k] + b[k+1]`, the big-endian two-byte field at k (00_scope.md R12, 20_memory.md R42). -/
def bigEndian (b : Bytes) (k : Nat) : Nat := 256 * (byteAt b k).toNat + (byteAt b (k + 1)).toNat

/-- `zext_32(v)` (00_scope.md R13). -/
def zext32 (v : Nat) : Word := BitVec.ofNat 32 v

/-- `sext_32(w)`, the two's-complement value (00_scope.md R13). -/
def sext32 (w : Word) : Int := w.toInt

/-- A one-bit value as a number. -/
def bitVal (b : Bool) : Nat := if b then 1 else 0

/-- `CFG_FMT` as a number: 0 = STRUCTURED, 1 = LEGACY (10_state.md R27). -/
def Format.code : Format → Nat
  | .structured => 0
  | .legacy => 1

/-- The format that the bit `v` names (44_endpoint.md R117). -/
def Format.ofBit (v : Bool) : Format := if v then .legacy else .structured

/-- The 4-bit status code (30_encoding.md R67). -/
def Status.code : Status → BitVec 4
  | .ok => 0
  | .empty => 1
  | .discard => 2
  | .nothing => 3
  | .scanEnd => 4
  | .illegal => 15

/-- `q.LEN = |q.PAY|` (00_scope.md R14, 10_state.md R20). -/
def Packet.len (q : Packet) : Nat := q.pay.length

/-- `P[r]`, read (10_state.md R18). -/
def State.preg (s : State) : PReg → Packet
  | .p0 => s.p0
  | .p1 => s.p1

/-- `P[r] <- q`, the register alone. -/
def State.setPreg (s : State) (r : PReg) (q : Packet) : State :=
  match r with
  | .p0 => { s with p0 := q }
  | .p1 => { s with p1 := q }

/-- `SCAN_ACTIVE <- 0`; `SCAN_OFF` keeps its value (43_group.md R106). -/
def State.endScan (s : State) : State := { s with scanActive := false }

/-- `end_scan_if(r)`: a write to `P[0]` ends a scan, a write to `P[1]` does not (43_group.md R106). -/
def State.endScanIf (s : State) (r : PReg) : State :=
  match r with
  | .p0 => s.endScan
  | .p1 => s

/-- `P[r] <- q; end_scan_if(r)`: what every command that writes a packet register does (43_group.md R106). -/
def State.writePreg (s : State) (r : PReg) (q : Packet) : State := (s.setPreg r q).endScanIf r

/-- `respond(status, rval, dout)`: the response of the command, and its end (00_scope.md R13, 30_encoding.md R58, R66). -/
def respond (s : State) (status : Status) (rval : Nat) (dout : Bytes) : Result :=
  .next { s with responses := s.responses ++ [{ status := status, rval := zext32 rval, dout := dout }] }

/-- `respond(OK)`: status OK, rval 0, dout empty (30_encoding.md R66). -/
def respondOk (s : State) : Result := respond s .ok 0 []

/-- The response to an illegal command word; no state changes (30_encoding.md R71). -/
def respondIllegal (s : State) : Result := respond s .illegal 0 []

/-- The command port takes a command: its operands stand on the channels `arg` and `din` while it executes
(30_encoding.md R58; log 5). -/
def State.accept (s : State) (c : Command) : State := { s with arg := c.arg, din := c.din }

/-- After the response nothing of the command's operands persists (10_state.md R17; log 5). -/
def State.retire (s : State) : State := { s with arg := 0#32, din := [] }

/-- Every piece of the block's state at its reset value, whatever a command had done (70_reset_and_hazards.md R143, R144;
log 8). -/
def State.loadReset (s : State) : State := { s with toBlock := Block.reset, arg := 0#32, din := [] }

end Sys2Proof.Machine
end

