-- ==== Sys2Proof/Machine/Operands.lean ====
section
/-! DEFINITION. The operand forms: the clamped integer operand (40_codec.md R78), the fitted and the trimmed address (R79,
R80), the truncated payload (41_packet.md R92) and the parts of the `din` of NEW and MAKE (R88, 44_endpoint.md R121). -/

namespace Sys2Proof.Machine

/-- `clamp_N(x)`: 0 below 0, `2^N - 1` above `2^N - 1`, otherwise `x`; it never wraps (40_codec.md R78). -/
def clampN (n : Nat) (x : Int) : BitVec n :=
  if x < 0 then 0#n
  else if x > 2 ^ n - 1 then BitVec.ofNat n (2 ^ n - 1)
  else BitVec.ofNat n x.toNat

/-- `clamp_8`, for PORT, FLAGS and CFG_PORT (40_codec.md R78). -/
def clamp8 (x : Int) : BitVec 8 := clampN 8 x

/-- The integer operand `sext_32(arg)` (30_encoding.md R64, R74). -/
def State.intArg (s : State) : Int := sext32 s.arg

/-- `fit8(b)`: the first 8 bytes, padded on the right with spaces to exactly 8 (40_codec.md R79). -/
def fit8 (b : Bytes) : Addr where
  bytes := b.take 8 ++ List.replicate (8 - min b.length 8) Config.padByte
  size := by simp only [List.length_append, List.length_take, List.length_replicate]; omega

/-- The least k such that every byte from k on is the padding byte, for a byte string of any length. -/
def trimlenBytes : Bytes → Nat
  | [] => 0
  | x :: xs =>
    let k := trimlenBytes xs
    if k = 0 ∧ x = Config.padByte then 0 else k + 1

/-- `trimlen(a)`: only trailing bytes 0x20 are removed (40_codec.md R80). -/
def trimlen (a : Addr) : Nat := trimlenBytes a.bytes

/-- The trimmed address `a[0..trimlen(a))` (40_codec.md R80). -/
def trimmed (a : Addr) : Bytes := slice a.bytes 0 (trimlen a)

/-- A payload operand, truncated to its first 1024 bytes (41_packet.md R92, 10_state.md R21). -/
def fitPayload (b : Bytes) : Bytes := slice b 0 (min b.length Config.maxPayload)

/-- The parts of NEW's `din = src8 ‖ dst8 ‖ payload`: the bounds a, d and e of 41_packet.md R88. -/
def newSrc (din : Bytes) : Addr := fit8 (slice din 0 (min din.length 8))

/-- NEW's destination address: `fit8(din[a..d))` (41_packet.md R88). -/
def newDst (din : Bytes) : Addr := fit8 (slice din (min din.length 8) (min din.length 16))

/-- NEW's payload: `din[d..e)`, at most 1024 bytes (41_packet.md R88). -/
def newPayload (din : Bytes) : Bytes :=
  slice din (min din.length 16) (min din.length (16 + Config.maxPayload))

/-- MAKE's destination address: `fit8(din[0..d))` (44_endpoint.md R121). -/
def makeDst (din : Bytes) : Addr := fit8 (slice din 0 (min din.length 8))

/-- MAKE's payload: `din[d..e)`, at most 1024 bytes (44_endpoint.md R121). -/
def makePayload (din : Bytes) : Bytes :=
  slice din (min din.length 8) (min din.length (8 + Config.maxPayload))

end Sys2Proof.Machine
end

