-- ==== Sys2Proof/Machine/Flags.lean ====
section
/-! DEFINITION. The flag byte: flag index i (0 = the most significant bit) is bit `7 - i`, with mask `0x80 >> i`
(10_state.md R24, 42_flags.md R102, R103). The block has no condition codes (10_state.md R32): these flags are data. -/

namespace Sys2Proof.Machine

/-- The mask `0x80 >> idx` of a flag index (10_state.md R24). -/
def flagMask (idx : BitVec 3) : BitVec 8 := 0x80#8 >>> idx.toNat

/-- The flag byte with one named flag written, the seven other bits kept (42_flags.md R102). -/
def setFlagBit (f : BitVec 8) (idx : BitVec 3) (v : Bool) : BitVec 8 :=
  if v then f ||| flagMask idx else f &&& (0xFF#8 ^^^ flagMask idx)

/-- `FLAGS[7 - idx]` (42_flags.md R103). -/
def flagBit (f : BitVec 8) (idx : BitVec 3) : Bool := f.getLsbD (7 - idx.toNat)

/-- The GROUP flag of a packet: flag index 0, bit 7 (10_state.md R24, 43_group.md R107). -/
def Packet.isGroup (q : Packet) : Bool := flagBit q.flags FlagName.group.index

end Sys2Proof.Machine
end

