-- ==== Sys2Proof/Machine/Wire.lean ====
section
/-! DEFINITION. The pure functions of the wire format: frame (40_codec.md R81), parse (R82, R83), the sub-packet at an
offset and the extracted sequence (43_group.md R108, R110), and the address and port filter (44_endpoint.md R122). -/

namespace Sys2Proof.Machine

/-- The valid packet whose header stands at offset `o` of `b` and whose payload is the `l` bytes after it, taken from the
field slices (20_memory.md R38, R41). Used only where `o + 20 + l <= |b|`: the two address slices then have 8 bytes each,
on which `fit8` is the identity (log 14). -/
def packetAt (b : Bytes) (o l : Nat) : Packet :=
  { valid := true
    src := fit8 (slice b o (o + 8))
    dst := fit8 (slice b (o + 8) (o + 16))
    port := byteAt b (o + 16)
    flags := byteAt b (o + 17)
    pay := slice b (o + 20) (o + 20 + l) }

/-- `frame(q)` (40_codec.md R81); the length is written big-endian (20_memory.md R42). It does not read VALID. -/
def frame (q : Packet) : Bytes :=
  let len : BitVec 16 := BitVec.ofNat 16 q.len
  q.src.bytes ++ q.dst.bytes ++ [q.port] ++ [q.flags] ++ [len.extractLsb' 8 8] ++ [len.extractLsb' 0 8] ++ q.pay

/-- `parse(b)` (40_codec.md R82): the empty sentinel in the three cases of R83, else the packet at offset 0. -/
def parse (b : Bytes) : Packet :=
  if b.length < Config.hdrLen then emptyPkt
  else
    let l := bigEndian b 18
    if l > Config.maxPayload then emptyPkt
    else if b.length < Config.hdrLen + l then emptyPkt
    else packetAt b 0 l

/-- The payload length of the sub-packet at offset `o` of the payload `p`, when there is a whole one: a header of 20 bytes
and as many bytes after it as it declares, within the whole payload (43_group.md R108; 90_conflicts.md C2). -/
def subLenAt (p : Bytes) (o : Nat) : Option Nat :=
  if o + 20 > p.length then none
  else
    let sl := bigEndian p (o + 18)
    if o + 20 + sl > p.length then none else some sl

/-- `extract(p)` from offset `o` on, within `fuel` sub-packets (43_group.md R110). -/
def extractFrom (p : Bytes) : Nat → Nat → List Packet
  | 0, _ => []
  | fuel + 1, o =>
    match subLenAt p o with
    | none => []
    | some sl => packetAt p o sl :: extractFrom p fuel (o + 20 + sl)

/-- `extract(p)` (43_group.md R110). Every sub-packet takes at least 20 bytes, so `|p|` rounds are enough. -/
def extract (p : Bytes) : List Packet := extractFrom p p.length 0

/-- `match(q)`, a 4-bit value: bit 0 the address, bit 1 the port, bit 2 `deliver`, bit 3 VALID (44_endpoint.md R122). -/
def matchVal (b : Block) (q : Packet) : BitVec 4 :=
  let a := q.dst == b.cfgAddr
  let t := q.port == b.cfgPort
  BitVec.ofNat 4 (bitVal a + 2 * bitVal t + 4 * bitVal (a && t) + 8 * bitVal q.valid)

end Sys2Proof.Machine
end

