-- ==== Sys2Proof/Machine/Codec.lean ====
section
/-! DEFINITION. The codec commands: ENCODE and DECODE (40_codec.md). -/

namespace Sys2Proof.Machine

/-- ENCODE (40_codec.md R86): the frame of `P[r]` on `dout`, its size as `rval`. -/
def execEncode (r : PReg) (s : State) : Result :=
  let f := frame (s.preg r)
  respond s .ok f.length f

/-- DECODE (40_codec.md R87): parse `din` into `P[r]`; a failed parse writes the empty sentinel and answers EMPTY. -/
def execDecode (r : PReg) (s : State) : Result :=
  let q := parse s.din
  let t := s.writePreg r q
  if q.valid then respond t .ok q.len [] else respond t .empty 0 []

end Sys2Proof.Machine
end

