-- ==== Sys2Proof/Machine/Endpoint.lean ====
section
/-! DEFINITION. Control, the configuration registers, stamping, and the address and port filter (44_endpoint.md). -/

namespace Sys2Proof.Machine

/-- NOP (44_endpoint.md R114). -/
def execNop (s : State) : Result := respondOk s

/-- CFG_SET_ADDR (44_endpoint.md R115); the scan is not affected. -/
def execCfgSetAddr (s : State) : Result := respondOk { s with cfgAddr := fit8 s.din }

/-- CFG_SET_PORT (44_endpoint.md R116). -/
def execCfgSetPort (s : State) : Result := respondOk { s with cfgPort := clamp8 s.intArg }

/-- CFG_SET_FMT (44_endpoint.md R117): writing the format, even the current one, ends a scan. -/
def execCfgSetFmt (v : Bool) (s : State) : Result := respondOk { s.endScan with cfgFmt := Format.ofBit v }

/-- CFG_GET_ADDR (44_endpoint.md R118): the 8 raw bytes, and the trimmed length as `rval`. -/
def execCfgGetAddr (s : State) : Result := respond s .ok (trimlen s.cfgAddr) s.cfgAddr.bytes

/-- CFG_GET_PORT (44_endpoint.md R119). -/
def execCfgGetPort (s : State) : Result := respond s .ok s.cfgPort.toNat []

/-- CFG_GET_FMT (44_endpoint.md R120). -/
def execCfgGetFmt (s : State) : Result := respond s .ok s.cfgFmt.code []

/-- MAKE (44_endpoint.md R121): a valid packet from the local address and port and `din = dst8 ‖ payload`, FLAGS 0. -/
def execMake (r : PReg) (s : State) : Result :=
  respondOk (s.writePreg r
    { valid := true
      src := s.cfgAddr
      dst := makeDst s.din
      port := s.cfgPort
      flags := 0#8
      pay := makePayload s.din })

/-- MATCH (44_endpoint.md R124). -/
def execMatchFilter (r : PReg) (s : State) : Result :=
  respond s .ok (matchVal s.toBlock (s.preg r)).toNat []

/-- RX (44_endpoint.md R125), its conditions in the order of 60_exceptions.md R133: an empty reception is NOTHING; a
filtered one whose parse does not match is DISCARD; otherwise the parsed packet, or the sentinel, is delivered. -/
def execRx (r : PReg) (v : Bool) (s : State) : Result :=
  if s.din.length = 0 then respond s .nothing 0 []
  else
    let q := parse s.din
    let m := matchVal s.toBlock q
    if v && !m.getLsbD 2 then respond s .discard m.toNat []
    else
      let t := s.writePreg r q
      if q.valid then respond t .ok m.toNat [] else respond t .empty m.toNat []

end Sys2Proof.Machine
end

