-- ==== Sys2Proof/Machine/FlagCmds.lean ====
section
/-! DEFINITION. The flag-field extractor (42_flags.md): the whole flag byte and one named flag, written and read. They work
the same in both formats (R105). -/

namespace Sys2Proof.Machine

/-- SET_FLAGS (42_flags.md R100). -/
def execSetFlags (r : PReg) (s : State) : Result :=
  respondOk (s.writePreg r { s.preg r with flags := clamp8 s.intArg })

/-- GET_FLAGS (42_flags.md R101). -/
def execGetFlags (r : PReg) (s : State) : Result :=
  respond s .ok (s.preg r).flags.toNat []

/-- SET_FLAG (42_flags.md R102): bit `7 - idx` alone. -/
def execSetFlag (r : PReg) (v : Bool) (idx : BitVec 3) (s : State) : Result :=
  respondOk (s.writePreg r { s.preg r with flags := setFlagBit (s.preg r).flags idx v })

/-- GET_FLAG (42_flags.md R103). -/
def execGetFlag (r : PReg) (idx : BitVec 3) (s : State) : Result :=
  respond s .ok (bitVal (flagBit (s.preg r).flags idx)) []

end Sys2Proof.Machine
end

