-- ==== Sys2Proof/Machine/Group.lean ====
section
/-! DEFINITION. Grouped sub-packet extraction (43_group.md): XBEGIN, XNEXT and XSTAT over the scan cursor. -/

namespace Sys2Proof.Machine

/-- XBEGIN (43_group.md R107): SCAN_OFF is 0, and a scan starts when the format is STRUCTURED and `P[0]` has GROUP set. -/
def execXbegin (s : State) : Result :=
  let starts := s.cfgFmt == .structured && s.p0.isGroup
  respond { s with scanOff := 0#11, scanActive := starts } .ok (bitVal starts) []

/-- XNEXT (43_group.md R108): the sub-packet at SCAN_OFF goes into `P[1]`, its frame on `dout`, its offset as `rval`; END
when no scan is active or no whole sub-packet is left, which ends the scan. -/
def execXnext (s : State) : Result :=
  if s.scanActive then
    let p := s.p0.pay
    let o := s.scanOff.toNat
    match subLenAt p o with
    | none => respond s.endScan .scanEnd 0 []
    | some sl =>
      respond { s with p1 := packetAt p o sl, scanOff := BitVec.ofNat 11 (o + 20 + sl) } .ok o
        (slice p o (o + 20 + sl))
  else respond s .scanEnd 0 []

/-- XSTAT (43_group.md R109): `SCAN_ACTIVE | SCAN_OFF << 1`. -/
def execXstat (s : State) : Result :=
  respond s .ok (bitVal s.scanActive ||| s.scanOff.toNat <<< 1) []

end Sys2Proof.Machine
end

