-- ==== Sys2Proof/Machine/PacketCmds.lean ====
section
/-! DEFINITION. Packet construction and field access (41_packet.md): NEW, the field mutators and the field accessors. -/

namespace Sys2Proof.Machine

/-- NEW (41_packet.md R88): a valid packet from `arg` (the port) and `din = src8 ‖ dst8 ‖ payload`, FLAGS 0. -/
def execNew (r : PReg) (s : State) : Result :=
  respondOk (s.writePreg r
    { valid := true
      src := newSrc s.din
      dst := newDst s.din
      port := clamp8 s.intArg
      flags := 0#8
      pay := newPayload s.din })

/-- SET_SRC (41_packet.md R89). -/
def execSetSrc (r : PReg) (s : State) : Result :=
  respondOk (s.writePreg r { s.preg r with src := fit8 s.din })

/-- SET_DST (41_packet.md R90). -/
def execSetDst (r : PReg) (s : State) : Result :=
  respondOk (s.writePreg r { s.preg r with dst := fit8 s.din })

/-- SET_PORT (41_packet.md R91): the clamp acts when the register is written. -/
def execSetPort (r : PReg) (s : State) : Result :=
  respondOk (s.writePreg r { s.preg r with port := clamp8 s.intArg })

/-- SET_PAYLOAD (41_packet.md R92); the length is derived. -/
def execSetPayload (r : PReg) (s : State) : Result :=
  respondOk (s.writePreg r { s.preg r with pay := fitPayload s.din })

/-- GET_SRC (41_packet.md R93): the 8 raw bytes, and the trimmed length as `rval`. -/
def execGetSrc (r : PReg) (s : State) : Result :=
  respond s .ok (trimlen (s.preg r).src) (s.preg r).src.bytes

/-- GET_DST (41_packet.md R94). -/
def execGetDst (r : PReg) (s : State) : Result :=
  respond s .ok (trimlen (s.preg r).dst) (s.preg r).dst.bytes

/-- GET_PORT (41_packet.md R95). -/
def execGetPort (r : PReg) (s : State) : Result :=
  respond s .ok (s.preg r).port.toNat []

/-- GET_LEN (41_packet.md R96). -/
def execGetLen (r : PReg) (s : State) : Result :=
  respond s .ok (s.preg r).len []

/-- GET_PAYLOAD (41_packet.md R97). -/
def execGetPayload (r : PReg) (s : State) : Result :=
  respond s .ok (s.preg r).len (s.preg r).pay

/-- GET_VALID (41_packet.md R98): 1 = valid, 0 = empty. -/
def execGetValid (r : PReg) (s : State) : Result :=
  respond s .ok (bitVal (s.preg r).valid) []

end Sys2Proof.Machine
end

