-- ==== Sys2Proof/Machine/Dispatch.lean ====
section
/-! DEFINITION. The dispatch of a command to its meaning: one arm per constructor of Instr, in the order of the opcode map
(30_encoding.md R69). -/

namespace Sys2Proof.Machine

/-- The effect and the response of one command on the state whose channels `arg` and `din` hold its operands. -/
def exec (i : Instr) (s : State) : Host.Outcome State Fault Refusal :=
  match i with
  | .nop => Sys2Proof.Machine.execNop s
  | .cfgSetAddr => Sys2Proof.Machine.execCfgSetAddr s
  | .cfgSetPort => Sys2Proof.Machine.execCfgSetPort s
  | .cfgSetFmt v => Sys2Proof.Machine.execCfgSetFmt v s
  | .cfgGetAddr => Sys2Proof.Machine.execCfgGetAddr s
  | .cfgGetPort => Sys2Proof.Machine.execCfgGetPort s
  | .cfgGetFmt => Sys2Proof.Machine.execCfgGetFmt s
  | .new r => Sys2Proof.Machine.execNew r s
  | .make r => Sys2Proof.Machine.execMake r s
  | .setSrc r => Sys2Proof.Machine.execSetSrc r s
  | .setDst r => Sys2Proof.Machine.execSetDst r s
  | .setPort r => Sys2Proof.Machine.execSetPort r s
  | .setFlags r => Sys2Proof.Machine.execSetFlags r s
  | .setPayload r => Sys2Proof.Machine.execSetPayload r s
  | .setFlag r v idx => Sys2Proof.Machine.execSetFlag r v idx s
  | .getSrc r => Sys2Proof.Machine.execGetSrc r s
  | .getDst r => Sys2Proof.Machine.execGetDst r s
  | .getPort r => Sys2Proof.Machine.execGetPort r s
  | .getFlags r => Sys2Proof.Machine.execGetFlags r s
  | .getLen r => Sys2Proof.Machine.execGetLen r s
  | .getPayload r => Sys2Proof.Machine.execGetPayload r s
  | .getFlag r idx => Sys2Proof.Machine.execGetFlag r idx s
  | .getValid r => Sys2Proof.Machine.execGetValid r s
  | .encode r => Sys2Proof.Machine.execEncode r s
  | .decode r => Sys2Proof.Machine.execDecode r s
  | .rx r v => Sys2Proof.Machine.execRx r v s
  | .matchFilter r => Sys2Proof.Machine.execMatchFilter r s
  | .xbegin => Sys2Proof.Machine.execXbegin s
  | .xnext => Sys2Proof.Machine.execXnext s
  | .xstat => Sys2Proof.Machine.execXstat s

end Sys2Proof.Machine
end

