-- ==== Sys2Proof/Machine/Port.lean ====
section
/-! DEFINITION. The command port and the reset input: what one event of the host's does (30_encoding.md R58, R70, R71;
70_reset_and_hazards.md R143, R144). -/

namespace Sys2Proof.Machine

/-- A command's outcome with its operands gone from the channels: nothing of them persists (10_state.md R17). -/
def afterExec : Result → Result
  | .next s => .next s.retire
  | .fault r => .fault r
  | .refused r => .refused r

/-- One command at the port: legality is tested on the command word alone and before anything else (60_exceptions.md
R133), an illegal word is answered ILLEGAL and changes no state (30_encoding.md R71), a legal one is executed atomically
(20_memory.md R48). A `din` longer than `DIN_MAX` is no command that can be issued (P9; log 4). -/
def runCommand (c : Command) (s : State) : Result :=
  if c.din.length > Config.dinMax then .refused .dinTooLong
  else
    match Sys2Proof.decode c.word with
    | .legal i => afterExec (exec i (s.accept c))
    | .illegal _ => afterExec (respondIllegal (s.accept c))

/-- One event of the host's. While reset is asserted the block accepts no command (70_reset_and_hazards.md R143; log 6); a
command that reset interrupts gives no response and leaves no write (R144); at the release every piece of state holds its
reset value (R143; log 7, log 8). DESIGN CHOICE (log 6): a command with a `din` longer than `DIN_MAX`, which cannot be
issued (93_implementation_defined.md P9), is not refused where reset decides the event: `assertResetDuring` takes the reset
whatever its command, and a command presented while reset is asserted is turned away whatever its `din`. -/
def hostEvent (e : HostEvent) (s : State) : Result :=
  match e with
  | .command c => if s.inReset then .next s else runCommand c s
  | .assertReset => .next { s.loadReset with inReset := true }
  | .assertResetDuring _ => .next { s.loadReset with inReset := true }
  | .releaseReset => if s.inReset then .next { s.loadReset with inReset := false } else .next s

/-- The next event, taken from the host's list. With none pending the block holds its state (60_exceptions.md R142;
log 3). -/
def portStep (s : State) : Result :=
  match s.inbox with
  | [] => .next s
  | e :: rest => hostEvent e { s with inbox := rest }

/-- A command at the head of the host's list and the reset input released, so that the next step takes it. -/
def State.withCommand (s : State) (c : Command) : State :=
  { s with inReset := false, inbox := .command c :: s.inbox }

end Sys2Proof.Machine
end

