-- ==== Sys2Proof/Machine/Step.lean ====
section
/-! DEFINITION. The step of the machine: one event of the host's, a command with its response among them. -/

namespace Sys2Proof.Machine

/-- One step (20_memory.md R48, R52): the host's next event, or nothing when there is none. -/
def step (s : State) : Host.Outcome State Fault Refusal := portStep s

/-- The state in which the next step takes the command word `w` of `nbits` bits, with `arg` 0 and `din` empty: the block
fetches nothing (10_state.md R30), so the word stands where the host's next command stands (log 2). -/
def State.withFetchWord (s : State) (nbits w : Nat) : State :=
  s.withCommand { word := tableWord nbits w, arg := 0#32, din := [] }

end Sys2Proof.Machine
end

