-- ==== Sys2Proof/Machine/Assembler.lean ====
section
/-! DEFINITION. The assembler's line of the spec's programs, as a term instead of text (30_encoding.md R75, R76), and the
command it stands for. Which of `pR`, `IDX` and `V` a line has is the constructor of `Instr`; log 21. -/

namespace Sys2Proof.Machine

/-- One term of a byte literal (30_encoding.md R76). -/
inductive ByteTerm where
  /-- `"text"`: the ASCII codes of the characters -/
  | text (t : String)
  /-- `x"41 4C ..."`: the bytes themselves -/
  | hex (b : Bytes)
  /-- `pad8("text")`: `fit8` of the text -/
  | pad8 (t : String)
  /-- `F(name)`: the frame of a packet -/
  | frameOf (q : Packet)
deriving DecidableEq, Repr

/-- The ASCII codes of the characters (00_scope.md R11, 30_encoding.md R76; log 16). DESIGN CHOICE (log 21): a character
with a code above 127 has no ASCII code and the spec gives it no byte; here it becomes the low 8 bits of its code point. -/
def asciiBytes (t : String) : Bytes := t.toList.map fun c => BitVec.ofNat 8 c.toNat

/-- The bytes of one term (30_encoding.md R76). -/
def ByteTerm.bytes : ByteTerm → Bytes
  | .text t => asciiBytes t
  | .hex b => b
  | .pad8 t => (fit8 (asciiBytes t)).bytes
  | .frameOf q => frame q

/-- One line: a mnemonic with its fields, `arg=INT` and `din=BYTES`, either absent (30_encoding.md R75). -/
structure AsmLine where
  instr : Instr
  /-- absent means 0 -/
  arg : Option Int := none
  /-- the terms joined by `++`; absent means the empty string -/
  din : Option (List ByteTerm) := none
deriving DecidableEq, Repr

/-- The command a line stands for (30_encoding.md R75, R76). DESIGN CHOICE (log 21): an integer outside 32 bits becomes its
low 32 bits. -/
def assemble (l : AsmLine) : Command :=
  { word := Sys2Proof.encode l.instr
    arg := BitVec.ofInt 32 (l.arg.getD 0)
    din := (l.din.getD []).flatMap ByteTerm.bytes }

end Sys2Proof.Machine
end

