-- ==== Sys2Proof/Machine/Procedures.lean ====
section
/-! DEFINITION. The host procedures the spec writes down over the block's commands: the receive loops (44_endpoint.md R126,
R127), the extraction of a whole group (43_group.md R110), rebuilding an outer scan (R113) and the configuration before use
(70_reset_and_hazards.md R145). They are the host's control flow (10_state.md R30), built on the port; the machine's step
does not use them. -/

namespace Sys2Proof.Machine

/-- What a receive loop ends in, over a finite list of receptions (log 19). -/
inductive Received where
  /-- RX answered OK or EMPTY: the packet is in the register; with the receptions not taken yet -/
  | delivered (s : State) (rest : List Bytes)
  /-- every reception was taken and none was delivered: the host goes on waiting, or its timeout expires -/
  | waiting (s : State)
  /-- the port gave no response; it never does so here -/
  | noResponse
deriving DecidableEq, Repr

/-- The status of the latest response. -/
def State.lastStatus (s : State) : Option Status := s.responses.getLast?.map Response.status

/-- The `dout` of the latest response. -/
def State.lastDout (s : State) : Bytes := (s.responses.getLast?.map Response.dout).getD []

/-- `RX r, v, din=b`; of a reception longer than `DIN_MAX` the host gives that long a prefix (30_encoding.md R65). -/
def rxCommand (v : Bool) (r : PReg) (b : Bytes) : Command :=
  assemble { instr := .rx r v, din := some [.hex (b.take Config.dinMax)] }

/-- The receive loop: `receive_any` with `v` false (44_endpoint.md R126), `receive` with `v` true (R127). It takes the
receptions in order, one RX each, and stops at the first response OK or EMPTY. -/
def receiveLoop (v : Bool) (r : PReg) : List Bytes → State → Received
  | [], s => .waiting s
  | b :: bs, s =>
    match runCommand (rxCommand v r b) s with
    | .next t =>
      if t.lastStatus = some .ok ∨ t.lastStatus = some .empty then .delivered t bs else receiveLoop v r bs t
    | .fault _ => .noResponse
    | .refused _ => .noResponse

/-- XNEXT until a response that is not OK, or `fuel` times: the sub-packets found in `P[1]` after each OK, and the state
then reached (43_group.md R110). -/
def xnextRun : Nat → State → List Packet × State
  | 0, s => ([], s)
  | fuel + 1, s =>
    match runCommand (assemble { instr := .xnext }) s with
    | .next t =>
      if t.lastStatus = some .ok then
        let rest := xnextRun fuel t
        (t.p1 :: rest.1, rest.2)
      else ([], t)
    | .fault _ => ([], s)
    | .refused _ => ([], s)

/-- `extract_subpackets()` on the block: XBEGIN, then XNEXT until END. 51 sub-packets at most (43_group.md R111), so 52
XNEXTs always reach END. -/
def extractGroup (s : State) : List Packet × State :=
  match runCommand (assemble { instr := .xbegin }) s with
  | .next t => xnextRun 52 t
  | .fault _ => ([], s)
  | .refused _ => ([], s)

/-- Commands issued one after the other, each after the response to the one before it (20_memory.md R52). -/
def runCommands : List Command → State → Result
  | [], s => .next s
  | c :: cs, s =>
    match runCommand c s with
    | .next t => runCommands cs t
    | .fault r => .fault r
    | .refused r => .refused r

/-- Rebuilding an outer scan from which `m` sub-packets had been taken: decode the kept outer frame into `P[0]`, XBEGIN,
and XNEXT `m` times (43_group.md R113, steps 2 and 3). -/
def rebuildScan (outerFrame : Bytes) (m : Nat) : List Command :=
  assemble { instr := .decode .p0, din := some [.hex outerFrame] } ::
    assemble { instr := .xbegin } :: List.replicate m (assemble { instr := .xnext })

/-- The configuration before use: the local address, the local port, and the format only if LEGACY is wanted
(70_reset_and_hazards.md R145). -/
def configure (addr : Bytes) (port : Int) (legacy : Bool) : List Command :=
  [assemble { instr := .cfgSetAddr, din := some [.hex addr] }, assemble { instr := .cfgSetPort, arg := some port }] ++
    (if legacy then [assemble { instr := .cfgSetFmt true }] else [])

end Sys2Proof.Machine
end

