-- ==== Sys2Proof/Safety.lean ====
section
/-! DEFINITION. The terms that statements about the block use: the invariant of its reachable states, and the spec's tables
of which command reads, writes, reports or ends what. -/

namespace Sys2Proof.Machine

/-- A packet value's bound: `|PAY| <= 1024` (00_scope.md R14, 10_state.md R21). -/
def Packet.wf (q : Packet) : Prop := q.pay.length ≤ Config.maxPayload

/-- What holds of the block's state in every reachable state: both payloads keep their bound (10_state.md R21), SCAN_OFF
never exceeds 1024 (R29), and while a scan is active `P[0]` is a GROUP packet in STRUCTURED format, as XBEGIN found it, and
SCAN_OFF is an offset of its payload (R28, R29; 43_group.md R106, R107, R111). -/
structure Block.Inv (b : Block) : Prop where
  pay0 : b.p0.wf
  pay1 : b.p1.wf
  off : b.scanOff.toNat ≤ Config.maxPayload
  active : b.scanActive = true → b.cfgFmt = .structured ∧ b.p0.isGroup = true ∧ b.scanOff.toNat ≤ b.p0.pay.length

/-- The invariant of the machine: the block's, and no response given carries more than 1044 bytes (20_memory.md R37). -/
structure State.Inv (s : State) : Prop where
  block : s.toBlock.Inv
  douts : ∀ x ∈ s.responses, x.dout.length ≤ Config.maxFrame

/-- `s` with one more response: status `st`, the number `v` as the 32-bit `rval`, and `dout` (30_encoding.md R58). -/
def State.answered (s : State) (st : Status) (v : Nat) (dout : Bytes) : State :=
  { s with responses := s.responses ++ [{ status := st, rval := BitVec.ofNat 32 v, dout := dout }] }

/-- A reception that RX delivers: not empty and, when filtered, addressed to the local address and port once parsed
(44_endpoint.md R122, R125). -/
def Block.delivers (b : Block) (v : Bool) (reception : Bytes) : Prop :=
  reception ≠ [] ∧ (v = true → (parse reception).dst = b.cfgAddr ∧ (parse reception).port = b.cfgPort)

end Sys2Proof.Machine

namespace Sys2Proof

open Machine

/-- The other packet register (10_state.md R18). -/
def PReg.other : PReg → PReg
  | .p0 => .p1
  | .p1 => .p0

/-- The side-effect-free commands: GET_*, CFG_GET_*, ENCODE, MATCH and XSTAT (20_memory.md R49), and NOP, whose rule writes
no state (44_endpoint.md R114). -/
def Instr.readOnly : Instr → Bool
  | .nop | .cfgGetAddr | .cfgGetPort | .cfgGetFmt => true
  | .getSrc _ | .getDst _ | .getPort _ | .getFlags _ | .getLen _ | .getPayload _ | .getFlag _ _ | .getValid _ => true
  | .encode _ | .matchFilter _ | .xstat => true
  | .cfgSetAddr | .cfgSetPort | .cfgSetFmt _ => false
  | .new _ | .make _ | .setSrc _ | .setDst _ | .setPort _ | .setFlags _ | .setPayload _ | .setFlag _ _ _ => false
  | .decode _ | .rx _ _ | .xbegin | .xnext => false

/-- The commands that read `arg` (30_encoding.md R64). -/
def Instr.readsArg : Instr → Bool
  | .new _ | .setPort _ | .setFlags _ | .cfgSetPort => true
  | .nop | .cfgSetAddr | .cfgSetFmt _ | .cfgGetAddr | .cfgGetPort | .cfgGetFmt => false
  | .make _ | .setSrc _ | .setDst _ | .setPayload _ | .setFlag _ _ _ => false
  | .getSrc _ | .getDst _ | .getPort _ | .getFlags _ | .getLen _ | .getPayload _ | .getFlag _ _ | .getValid _ => false
  | .encode _ | .decode _ | .rx _ _ | .matchFilter _ | .xbegin | .xnext | .xstat => false

/-- The commands that read `din` (30_encoding.md R65). -/
def Instr.readsDin : Instr → Bool
  | .new _ | .make _ | .setSrc _ | .setDst _ | .setPayload _ | .cfgSetAddr | .decode _ | .rx _ _ => true
  | .nop | .cfgSetPort | .cfgSetFmt _ | .cfgGetAddr | .cfgGetPort | .cfgGetFmt => false
  | .setPort _ | .setFlags _ | .setFlag _ _ _ => false
  | .getSrc _ | .getDst _ | .getPort _ | .getFlags _ | .getLen _ | .getPayload _ | .getFlag _ _ | .getValid _ => false
  | .encode _ | .matchFilter _ | .xbegin | .xnext | .xstat => false

/-- The column "produced by" of the status table (30_encoding.md R67), for legal commands: EMPTY by DECODE and RX, DISCARD
by RX with v = 1, NOTHING by RX, END by XNEXT, OK by every command. -/
def Instr.mayAnswer (i : Instr) : Status → Prop
  | .ok => True
  | .empty => ∃ r, i = .decode r ∨ ∃ v, i = .rx r v
  | .discard => ∃ r, i = .rx r true
  | .nothing => ∃ r v, i = .rx r v
  | .scanEnd => i = .xnext
  | .illegal => False

/-- The commands of 43_group.md R106 that set `SCAN_ACTIVE` to 0 whatever they answer: those that write `P[0]`, but for RX,
and CFG_SET_FMT. -/
def Instr.endsScan : Instr → Bool
  | .new r | .make r | .setSrc r | .setDst r | .setPort r | .setFlags r | .setPayload r | .setFlag r _ _ => r == .p0
  | .decode r => r == .p0
  | .cfgSetFmt _ => true
  | .nop | .cfgSetAddr | .cfgSetPort | .cfgGetAddr | .cfgGetPort | .cfgGetFmt => false
  | .getSrc _ | .getDst _ | .getPort _ | .getFlags _ | .getLen _ | .getPayload _ | .getFlag _ _ | .getValid _ => false
  | .encode _ | .rx _ _ | .matchFilter _ | .xbegin | .xnext | .xstat => false

end Sys2Proof
end

