-- ==== Sys2Proof/Certificates/Slice0/Obligations.lean ====
section
/-! DEFINITION. The statements for the provers. Each states rules of spec/ about the machine; `s.answered st v d` is `s` with
one more response. The statements about one command give its next state whole, as an update of `s`: what the update does
not name is unchanged (the frame). The block has no memory, no flags register and no program counter, so the frame is the
packet registers, the configuration, the scan cursor and the model's own port fields. -/

open Sys2Proof Sys2Proof.Machine

/-! ### Command words -/

/-- R59, R69: a decoded encoding is the command, with every operand at every value its field admits. -/
def Obligations.DecodeOfEncodeIsIdentity : Prop :=
  ∀ i : Instr, decode (encode i) = .legal i

/-- R59, R63, R70: a word that decodes is the encoding of what it decodes to, so each command has one word. -/
def Obligations.EncodeOfDecodeIsWord : Prop :=
  ∀ (w : CmdWord) (i : Instr), decode w = .legal i → encode i = w

/-- R70, with the fields of R59 as numbers and the columns of R69 as sets of opcodes. -/
def Obligations.WordIllegalExactlyWhen : Prop :=
  ∀ w : CmdWord,
    (∃ why, decode w = .illegal why) ↔
      (w.toNat / 1024 = 0x07 ∨ 0x1F ≤ w.toNat / 1024) ∨
      w.toNat / 8 % 32 ≠ 0 ∨
      (w.toNat / 512 % 2 ≠ 0 ∧ ¬(0x08 ≤ w.toNat / 1024 ∧ w.toNat / 1024 ≤ 0x1B)) ∨
      (w.toNat / 256 % 2 ≠ 0 ∧ w.toNat / 1024 ∉ [0x03, 0x0F, 0x1A]) ∨
      (w.toNat % 8 ≠ 0 ∧ w.toNat / 1024 ∉ [0x0F, 0x16])

/-- A few words of the spec's tables (30_encoding.md R75, R77; 95_test_vectors.md 2.6), decoded. -/
def Obligations.SampleWordsDecode : Prop :=
  decode 0x0000 = .legal .nop ∧ decode 0x0D00 = .legal (.cfgSetFmt true) ∧ decode 0x2200 = .legal (.new .p1) ∧
  decode 0x3D00 = .legal (.setFlag .p0 true 0) ∧ decode 0x3F07 = .legal (.setFlag .p1 true 7) ∧
  decode 0x5A07 = .legal (.getFlag .p1 7) ∧ decode 0x6000 = .legal (.encode .p0) ∧
  decode 0x6B00 = .legal (.rx .p1 true) ∧ decode 0x7400 = .legal .xnext ∧
  decode 0x1C00 = .illegal .reservedOpcode ∧ decode 0x3FFF = .illegal .reservedBits

/-- R77: the eighteen pseudo-instructions' words for `p0`; for `p1` 0x0200 is added. -/
def Obligations.PseudoInstructionWords : Prop :=
  ([.group, .checksum, .signature, .key, .encoding, .formatting, .encryption, .subheader].map
      fun f => encode (expandPseudo (.isNamed f .p0))) =
    [0x5800, 0x5801, 0x5802, 0x5803, 0x5804, 0x5805, 0x5806, 0x5807] ∧
  (∀ v, ([.group, .checksum, .signature, .key, .encoding, .formatting, .encryption, .subheader].map
      fun f => encode (expandPseudo (.setNamed f .p0 v))) =
    [0x3C00, 0x3C01, 0x3C02, 0x3C03, 0x3C04, 0x3C05, 0x3C06, 0x3C07].map
      fun w => w ||| (BitVec.ofBool v).setWidth 16 <<< 8) ∧
  encode (expandPseudo (.rxa .p0)) = 0x6800 ∧ encode (expandPseudo (.rxf .p0)) = 0x6900 ∧
  (∀ f, encode (expandPseudo (.isNamed f .p1)) = encode (expandPseudo (.isNamed f .p0)) + 0x0200) ∧
  (∀ f v, encode (expandPseudo (.setNamed f .p1 v)) = encode (expandPseudo (.setNamed f .p0 v)) + 0x0200) ∧
  encode (expandPseudo (.rxa .p1)) = 0x6A00 ∧ encode (expandPseudo (.rxf .p1)) = 0x6B00

/-! ### The command port and the reset input -/

/-- R58, R73 with the model's ports (log 1, log 5): at the head of the host's list, with reset released, a command whose
word decodes to `i` is executed as `i` with its operands on the channels; after it the channels are clear. -/
def Obligations.StepRunsDecodedCommand : Prop :=
  ∀ (s : State) (c : Command) (rest : List HostEvent) (i : Instr),
    s.inReset = false → s.inbox = .command c :: rest → c.din.length ≤ 65535 → decode c.word = .legal i →
    step s = match exec i { s with inbox := rest, arg := c.arg, din := c.din } with
      | .next t => .next { t with arg := 0, din := [] }
      | .fault f => .fault f
      | .refused f => .refused f

/-- R71: an illegal command changes no state of the block and responds (ILLEGAL, 0, []), whatever its operands. That the
operand channels are clear after it is the model's (log 5). -/
def Obligations.IllegalWordAnsweredIllegal : Prop :=
  ∀ (s : State) (c : Command) (why : Illegal),
    decode c.word = .illegal why → c.din.length ≤ 65535 →
    runCommand c s = .next { s.answered .illegal 0 [] with arg := 0, din := [] }

/-- R58: a command that can be issued is answered, by exactly one response, and the port is then free: reset input and
the host's later events are as they were. That the operand channels are clear after it is the model's (log 5). -/
def Obligations.EveryCommandGetsOneResponse : Prop :=
  ∀ (s : State) (c : Command), c.din.length ≤ 65535 →
    ∃ t x, runCommand c s = .next t ∧ t.responses = s.responses ++ [x] ∧
      t.inbox = s.inbox ∧ t.inReset = s.inReset ∧ t.arg = 0 ∧ t.din = []

/-- R142: with no event of the host's pending the block holds its state (log 3). -/
def Obligations.IdleBlockHoldsState : Prop :=
  ∀ (s : State) (n : Nat), s.inbox = [] → Host.Core.run core n s = .next s

/-- R34: the block's state after reset, field by field. -/
def Obligations.ResetValues : Prop :=
  let q : Packet := State.reset.p0
  State.reset.p1 = q ∧
  q.valid = false ∧ q.src.bytes = List.replicate 8 0x20#8 ∧ q.dst.bytes = List.replicate 8 0x20#8 ∧
  q.port = 0 ∧ q.flags = 0 ∧ q.pay = [] ∧ q.len = 0 ∧
  State.reset.cfgAddr.bytes = List.replicate 8 0x20#8 ∧ State.reset.cfgPort = 0 ∧
  State.reset.cfgFmt = .structured ∧ State.reset.scanActive = false ∧ State.reset.scanOff = 0

/-- R143 with the model's events (log 6): from any state, whatever commands are presented while reset is asserted, none is
accepted (there is no response), and when reset is released every piece of state holds its reset value. That a command
that cannot be issued (P9) is turned away like any other is the model's choice (log 6); so are, in the state reached, the
channels `arg` 0 and `din` empty (DESIGN CHOICE, log 5), and, from a state already in reset, what asserting it again does
(DESIGN CHOICE, log 7). -/
def Obligations.ResetAcceptsNothingAndRestoresAll : Prop :=
  ∀ (s : State) (cs : List Command) (rest : List HostEvent),
    s.inbox = .assertReset :: (cs.map .command ++ .releaseReset :: rest) →
    Host.Core.run core (cs.length + 2) s =
      .next { State.reset with inbox := rest, responses := s.responses }

/-- R144 with the model's events (log 6): a command that reset interrupts gives no response and leaves no write: after
the release the state is the reset state, whatever the command. That this takes in a command that cannot be issued (P9)
is the model's choice (log 6); so are, in the state reached, the channels `arg` 0 and `din` empty (DESIGN CHOICE, log 5),
and, from a state already in reset, where no command is executing, what the event does (DESIGN CHOICE, log 7). -/
def Obligations.InterruptedCommandLeavesNothing : Prop :=
  ∀ (s : State) (c : Command) (rest : List HostEvent),
    s.inbox = .assertResetDuring c :: .releaseReset :: rest →
    Host.Core.run core 2 s = .next { State.reset with inbox := rest, responses := s.responses }

/-- R129: a step never faults. It stops for one reason only, a command that cannot be issued because its `din` is longer
than 65535 bytes (P9): that one the model refuses (log 4), and in every other state the step answers a next state. That
such a command is NOT refused where reset decides the event (presented while reset is asserted, or named by
`assertResetDuring`) is the model's choice (DESIGN CHOICE, log 6, unsafe for those events): the spec does not say.
That a step with no event pending and one whose event releases a released reset or asserts an asserted one answer a next
state is the model's too (logs 3 and 7). -/
def Obligations.StepStopsExactlyOnTooLongDin : Prop :=
  ∀ s : State,
    ((∃ t, step s = .next t) ∨ step s = .refused .dinTooLong) ∧
    (step s = .refused .dinTooLong ↔
      s.inReset = false ∧ ∃ c rest, s.inbox = .command c :: rest ∧ 65535 < c.din.length)

/-- R52, R153: commands issued in a row (on the model's list of the host's events, log 1) all complete, one response
each, and the run is the commands one after the other, each on the state the one before it left. -/
def Obligations.RunAnswersEveryCommandInOrder : Prop :=
  ∀ (cs : List Command) (s : State),
    (∀ c ∈ cs, c.din.length ≤ 65535) → s.inReset = false → s.inbox = cs.map .command →
    ∃ t, Host.Core.run core cs.length s = .next t ∧ t.inbox = [] ∧
      t.responses.length = s.responses.length + cs.length ∧
      runCommands cs { s with inbox := [] } = .next t

/-- R17, R32, R52: the block's next state and the response depend on the block's state and the operands alone: not on the
responses given before, nor on what the host does next (the model's own fields, log 1). -/
def Obligations.NothingElsePersists : Prop :=
  ∀ (i : Instr) (s s' : State), s.toBlock = s'.toBlock → s.arg = s'.arg → s.din = s'.din →
    ∃ t t' x, exec i s = .next t ∧ exec i s' = .next t' ∧ t.toBlock = t'.toBlock ∧
      t.responses = s.responses ++ [x] ∧ t'.responses = s'.responses ++ [x]

/-- R64, R65: a command that does not read `arg` ignores it, and one that does not read `din` ignores that. -/
def Obligations.UnreadOperandsAreIgnored : Prop :=
  ∀ (i : Instr) (s : State) (a : Word) (d : Bytes), ∃ t, exec i s = .next t ∧
    (i.readsArg = false → exec i { s with arg := a } = .next { t with arg := a }) ∧
    (i.readsDin = false → exec i { s with din := d } = .next { t with din := d })

/-- R67: the codes, and the column "produced by" for legal commands. -/
def Obligations.StatusesProducedAsListed : Prop :=
  ([.ok, .empty, .discard, .nothing, .scanEnd, .illegal].map Status.code) = [0, 1, 2, 3, 4, 15] ∧
  ∀ (i : Instr) (s t : State) (x : Response), exec i s = .next t → t.responses = s.responses ++ [x] →
    i.mayAnswer x.status

/-! ### The pure functions -/

/-- R78. -/
def Obligations.ClampSaturates : Prop :=
  ∀ (n : Nat) (x : Int),
    (x < 0 → (clampN n x).toNat = 0) ∧
    (2 ^ n - 1 < x → (clampN n x).toNat = 2 ^ n - 1) ∧
    (0 ≤ x → x ≤ 2 ^ n - 1 → ((clampN n x).toNat : Int) = x)

/-- R79: always 8 bytes; byte i is the string's byte i where it has one and a space where it has none. -/
def Obligations.FitPadsOrTruncatesToEight : Prop :=
  ∀ b : Bytes, (fit8 b).bytes.length = 8 ∧
    ∀ i < 8, (fit8 b).bytes[i]? = some (if h : i < b.length then b[i] else 0x20#8)

/-- R80: the least k in 0..8 from which on every byte is 0x20, and the trimmed address. -/
def Obligations.TrimmedLengthIsLeast : Prop :=
  ∀ a : Addr, trimlen a ≤ 8 ∧
    (∀ x ∈ a.bytes.drop (trimlen a), x = 0x20#8) ∧
    (∀ k, (∀ x ∈ a.bytes.drop k, x = 0x20#8) → trimlen a ≤ k) ∧
    trimmed a = a.bytes.take (trimlen a)

/-- R123: addresses with equal trimmed forms are equal, and conversely. -/
def Obligations.TrimmedComparisonIsRaw : Prop :=
  ∀ a b : Addr, trimmed a = trimmed b ↔ a = b

/-- R38, R39, R42, R81: the size of a frame and what stands at each of its offsets; VALID is not read. -/
def Obligations.FrameLayout : Prop :=
  ∀ q : Packet, q.wf →
    (frame q).length = 20 + q.pay.length ∧
    (frame q).take 8 = q.src.bytes ∧ ((frame q).drop 8).take 8 = q.dst.bytes ∧
    (frame q)[16]? = some q.port ∧ (frame q)[17]? = some q.flags ∧
    (∃ hi lo, (frame q)[18]? = some hi ∧ (frame q)[19]? = some lo ∧
      hi.toNat = q.pay.length / 256 ∧ lo.toNat = q.pay.length % 256) ∧
    (frame q).drop 20 = q.pay ∧
    ∀ v, frame { q with valid := v } = frame q

/-- R82: a whole frame is parsed into its fields, and what follows it is ignored. -/
def Obligations.ParseReadsWholeFrame : Prop :=
  ∀ b : Bytes,
    20 ≤ b.length → 256 * (b.getD 18 0).toNat + (b.getD 19 0).toNat ≤ 1024 →
    20 + (256 * (b.getD 18 0).toNat + (b.getD 19 0).toNat) ≤ b.length →
    (parse b).valid = true ∧ (parse b).src.bytes = b.take 8 ∧ (parse b).dst.bytes = (b.drop 8).take 8 ∧
    (parse b).port = b.getD 16 0 ∧ (parse b).flags = b.getD 17 0 ∧
    (parse b).pay = (b.drop 20).take (256 * (b.getD 18 0).toNat + (b.getD 19 0).toNat)

/-- R83: parse gives the empty sentinel in exactly three cases. -/
def Obligations.ParseFailureIsClosedList : Prop :=
  ∀ b : Bytes, parse b = emptyPkt ↔
    b.length < 20 ∨ 1024 < 256 * (b.getD 18 0).toNat + (b.getD 19 0).toNat ∨
    b.length < 20 + (256 * (b.getD 18 0).toNat + (b.getD 19 0).toNat)

/-- R84. -/
def Obligations.ParseOfLongPrefix : Prop :=
  ∀ (b : Bytes) (k : Nat), 1044 < b.length → 1044 ≤ k → k ≤ b.length → parse (b.take k) = parse b

/-- R85: a packet value's frame parses back to it, with VALID 1 whatever VALID was. -/
def Obligations.ParseOfFrameIsPacket : Prop :=
  ∀ q : Packet, q.wf → parse (frame q) = { q with valid := true }

/-- R122: the four bits of `match`. -/
def Obligations.MatchBits : Prop :=
  ∀ (b : Block) (q : Packet),
    ((matchVal b q).getLsbD 0 = true ↔ q.dst.bytes = b.cfgAddr.bytes) ∧
    ((matchVal b q).getLsbD 1 = true ↔ q.port = b.cfgPort) ∧
    ((matchVal b q).getLsbD 2 = true ↔ q.dst.bytes = b.cfgAddr.bytes ∧ q.port = b.cfgPort) ∧
    (matchVal b q).getLsbD 3 = q.valid

/-! ### Control and configuration -/

/-- R114: NOP; with any other field of its word nonzero the word is illegal. -/
def Obligations.NopOnlyAnswers : Prop :=
  encode .nop = 0x0000 ∧ (∀ s : State, exec .nop s = .next (s.answered .ok 0 [])) ∧
  ∀ w : CmdWord, w.toNat < 0x0400 → w ≠ 0x0000 → ∃ why, decode w = .illegal why

/-- R115, R116, R117: the configuration writes. CFG_SET_FMT ends a scan, the two others do not. -/
def Obligations.ConfigurationWrites : Prop :=
  encode .cfgSetAddr = 0x0400 ∧ encode .cfgSetPort = 0x0800 ∧
  encode (.cfgSetFmt false) = 0x0C00 ∧ encode (.cfgSetFmt true) = 0x0D00 ∧
  ∀ s : State,
    exec .cfgSetAddr s = .next ({ s with cfgAddr := fit8 s.din }.answered .ok 0 []) ∧
    exec .cfgSetPort s = .next ({ s with cfgPort := clampN 8 s.arg.toInt }.answered .ok 0 []) ∧
    exec (.cfgSetFmt false) s = .next ({ s with cfgFmt := .structured, scanActive := false }.answered .ok 0 []) ∧
    exec (.cfgSetFmt true) s = .next ({ s with cfgFmt := .legacy, scanActive := false }.answered .ok 0 [])

/-- R118, R119, R120: the configuration reads. -/
def Obligations.ConfigurationReads : Prop :=
  encode .cfgGetAddr = 0x1000 ∧ encode .cfgGetPort = 0x1400 ∧ encode .cfgGetFmt = 0x1800 ∧
  ∀ s : State,
    exec .cfgGetAddr s = .next (s.answered .ok (trimlen s.cfgAddr) s.cfgAddr.bytes) ∧
    exec .cfgGetPort s = .next (s.answered .ok s.cfgPort.toNat []) ∧
    exec .cfgGetFmt s = .next (s.answered .ok (if s.cfgFmt = .legacy then 1 else 0) [])

/-- R145: the configuration before use, in any order of its steps, leaves the endpoint configured and no packet register
touched. -/
def Obligations.ConfigureInAnyOrder : Prop :=
  ∀ (addr : Bytes) (port : Int) (legacy : Bool) (cs : List Command) (s : State),
    addr.length ≤ 65535 → -2 ^ 31 ≤ port → port < 2 ^ 31 → cs.Perm (configure addr port legacy) →
    ∃ t, runCommands cs s = .next t ∧ t.cfgAddr = fit8 addr ∧ t.cfgPort = clampN 8 port ∧
      t.cfgFmt = (if legacy then .legacy else s.cfgFmt) ∧ t.p0 = s.p0 ∧ t.p1 = s.p1 ∧ t.scanOff = s.scanOff

/-! ### Packet construction, mutators and accessors -/

/-- R88: NEW. -/
def Obligations.NewBuildsPacket : Prop :=
  encode (.new .p0) = 0x2000 ∧ encode (.new .p1) = 0x2200 ∧
  ∀ s : State,
    let q : Packet :=
      { valid := true, src := fit8 (s.din.take 8), dst := fit8 ((s.din.drop 8).take 8),
        port := clampN 8 s.arg.toInt, flags := 0, pay := (s.din.drop 16).take 1024 }
    exec (.new .p0) s = .next ({ s with p0 := q, scanActive := false }.answered .ok 0 []) ∧
    exec (.new .p1) s = .next ({ s with p1 := q }.answered .ok 0 [])

/-- R121: MAKE. -/
def Obligations.MakeStampsPacket : Prop :=
  encode (.make .p0) = 0x2400 ∧ encode (.make .p1) = 0x2600 ∧
  ∀ s : State,
    let q : Packet :=
      { valid := true, src := s.cfgAddr, dst := fit8 (s.din.take 8), port := s.cfgPort, flags := 0,
        pay := (s.din.drop 8).take 1024 }
    exec (.make .p0) s = .next ({ s with p0 := q, scanActive := false }.answered .ok 0 []) ∧
    exec (.make .p1) s = .next ({ s with p1 := q }.answered .ok 0 [])

/-- R89, R90: SET_SRC and SET_DST. -/
def Obligations.AddressMutators : Prop :=
  encode (.setSrc .p0) = 0x2800 ∧ encode (.setSrc .p1) = 0x2A00 ∧
  encode (.setDst .p0) = 0x2C00 ∧ encode (.setDst .p1) = 0x2E00 ∧
  ∀ s : State,
    exec (.setSrc .p0) s =
      .next ({ s with p0 := { s.p0 with src := fit8 s.din }, scanActive := false }.answered .ok 0 []) ∧
    exec (.setSrc .p1) s = .next ({ s with p1 := { s.p1 with src := fit8 s.din } }.answered .ok 0 []) ∧
    exec (.setDst .p0) s =
      .next ({ s with p0 := { s.p0 with dst := fit8 s.din }, scanActive := false }.answered .ok 0 []) ∧
    exec (.setDst .p1) s = .next ({ s with p1 := { s.p1 with dst := fit8 s.din } }.answered .ok 0 [])

/-- R91, R100: SET_PORT and SET_FLAGS store the clamped signed operand. -/
def Obligations.ClampedMutators : Prop :=
  encode (.setPort .p0) = 0x3000 ∧ encode (.setPort .p1) = 0x3200 ∧
  encode (.setFlags .p0) = 0x3400 ∧ encode (.setFlags .p1) = 0x3600 ∧
  ∀ s : State,
    exec (.setPort .p0) s = .next
      ({ s with p0 := { s.p0 with port := clampN 8 s.arg.toInt }, scanActive := false }.answered .ok 0 []) ∧
    exec (.setPort .p1) s =
      .next ({ s with p1 := { s.p1 with port := clampN 8 s.arg.toInt } }.answered .ok 0 []) ∧
    exec (.setFlags .p0) s = .next
      ({ s with p0 := { s.p0 with flags := clampN 8 s.arg.toInt }, scanActive := false }.answered .ok 0 []) ∧
    exec (.setFlags .p1) s =
      .next ({ s with p1 := { s.p1 with flags := clampN 8 s.arg.toInt } }.answered .ok 0 [])

/-- R92: SET_PAYLOAD keeps the first 1024 bytes. -/
def Obligations.PayloadMutator : Prop :=
  encode (.setPayload .p0) = 0x3800 ∧ encode (.setPayload .p1) = 0x3A00 ∧
  ∀ s : State,
    exec (.setPayload .p0) s =
      .next ({ s with p0 := { s.p0 with pay := s.din.take 1024 }, scanActive := false }.answered .ok 0 []) ∧
    exec (.setPayload .p1) s = .next ({ s with p1 := { s.p1 with pay := s.din.take 1024 } }.answered .ok 0 [])

/-- R93 to R98, R101: the accessors of the packet fields. -/
def Obligations.FieldAccessors : Prop :=
  (∀ r, encode (.getSrc r) = if r = .p0 then 0x4000 else 0x4200) ∧
  (∀ r, encode (.getDst r) = if r = .p0 then 0x4400 else 0x4600) ∧
  (∀ r, encode (.getPort r) = if r = .p0 then 0x4800 else 0x4A00) ∧
  (∀ r, encode (.getFlags r) = if r = .p0 then 0x4C00 else 0x4E00) ∧
  (∀ r, encode (.getLen r) = if r = .p0 then 0x5000 else 0x5200) ∧
  (∀ r, encode (.getPayload r) = if r = .p0 then 0x5400 else 0x5600) ∧
  (∀ r, encode (.getValid r) = if r = .p0 then 0x5C00 else 0x5E00) ∧
  ∀ s : State, ∀ r : PReg,
    exec (.getSrc r) s = .next (s.answered .ok (trimlen (s.preg r).src) (s.preg r).src.bytes) ∧
    exec (.getDst r) s = .next (s.answered .ok (trimlen (s.preg r).dst) (s.preg r).dst.bytes) ∧
    exec (.getPort r) s = .next (s.answered .ok (s.preg r).port.toNat []) ∧
    exec (.getFlags r) s = .next (s.answered .ok (s.preg r).flags.toNat []) ∧
    exec (.getLen r) s = .next (s.answered .ok (s.preg r).pay.length []) ∧
    exec (.getPayload r) s = .next (s.answered .ok (s.preg r).pay.length (s.preg r).pay) ∧
    exec (.getValid r) s = .next (s.answered .ok (if (s.preg r).valid then 1 else 0) [])

/-! ### Flags -/

/-- R102: SET_FLAG writes bit `7 - idx` of FLAGS and leaves the seven others. -/
def Obligations.SetFlagWritesOneBit : Prop :=
  (∀ v idx, encode (.setFlag .p0 v idx) =
    0x3C00 ||| (BitVec.ofBool v).setWidth 16 <<< 8 ||| idx.setWidth 16) ∧
  (∀ v idx, encode (.setFlag .p1 v idx) =
    0x3E00 ||| (BitVec.ofBool v).setWidth 16 <<< 8 ||| idx.setWidth 16) ∧
  ∀ (s : State) (v : Bool) (idx : BitVec 3),
    (∃ f : BitVec 8,
      exec (.setFlag .p0 v idx) s =
        .next ({ s with p0 := { s.p0 with flags := f }, scanActive := false }.answered .ok 0 []) ∧
      ∀ j < 8, f.getLsbD j = if j = 7 - idx.toNat then v else s.p0.flags.getLsbD j) ∧
    (∃ f : BitVec 8,
      exec (.setFlag .p1 v idx) s = .next ({ s with p1 := { s.p1 with flags := f } }.answered .ok 0 []) ∧
      ∀ j < 8, f.getLsbD j = if j = 7 - idx.toNat then v else s.p1.flags.getLsbD j)

/-- R103: GET_FLAG reads bit `7 - idx` of FLAGS. -/
def Obligations.GetFlagReadsOneBit : Prop :=
  (∀ idx, encode (.getFlag .p0 idx) = 0x5800 ||| idx.setWidth 16) ∧
  (∀ idx, encode (.getFlag .p1 idx) = 0x5A00 ||| idx.setWidth 16) ∧
  ∀ (s : State) (r : PReg) (idx : BitVec 3),
    exec (.getFlag r idx) s =
      .next (s.answered .ok (if (s.preg r).flags.getLsbD (7 - idx.toNat) then 1 else 0) [])

/-- R104: after SET_FLAG of one flag, GET_FLAG of it answers the value written, GET_FLAG of every other flag what it
answered before, and every other field of both registers is unchanged; SCAN_ACTIVE clears when `P[0]` is written. -/
def Obligations.FlagIndependence : Prop :=
  ∀ (s : State) (r : PReg) (v : Bool) (idx : BitVec 3), ∃ t, exec (.setFlag r v idx) s = .next t ∧
    exec (.getFlag r idx) t = .next (t.answered .ok (if v then 1 else 0) []) ∧
    (∀ j, j ≠ idx → ∃ n, exec (.getFlag r j) s = .next (s.answered .ok n []) ∧
      exec (.getFlag r j) t = .next (t.answered .ok n [])) ∧
    t.preg r = { s.preg r with flags := (t.preg r).flags } ∧ t.preg r.other = s.preg r.other ∧
    t.scanActive = (if r = .p0 then false else s.scanActive)

/-! ### Codec -/

/-- R86: ENCODE. -/
def Obligations.EncodeGivesFrame : Prop :=
  encode (.encode .p0) = 0x6000 ∧ encode (.encode .p1) = 0x6200 ∧
  ∀ (s : State) (r : PReg),
    exec (.encode r) s = .next (s.answered .ok (20 + (s.preg r).pay.length) (frame (s.preg r)))

/-- R87: DECODE. -/
def Obligations.DecodeWritesParse : Prop :=
  encode (.decode .p0) = 0x6400 ∧ encode (.decode .p1) = 0x6600 ∧
  ∀ s : State,
    exec (.decode .p0) s = .next
      (if (parse s.din).valid then
        { s with p0 := parse s.din, scanActive := false }.answered .ok (parse s.din).pay.length []
      else { s with p0 := emptyPkt, scanActive := false }.answered .empty 0 []) ∧
    exec (.decode .p1) s = .next
      (if (parse s.din).valid then { s with p1 := parse s.din }.answered .ok (parse s.din).pay.length []
      else { s with p1 := emptyPkt }.answered .empty 0 [])

/-- R85 on the machine: ENCODE of one register and DECODE of the bytes given into any register copies the packet, and the
copy is valid. -/
def Obligations.EncodeThenDecodeCopies : Prop :=
  ∀ (s : State) (r r' : PReg) (a a' : Word) (d : Bytes), (s.preg r).wf → d.length ≤ 65535 →
    ∃ t u, runCommand ⟨encode (.encode r), a, d⟩ s = .next t ∧
      runCommand ⟨encode (.decode r'), a', t.lastDout⟩ t = .next u ∧
      u.preg r' = { s.preg r with valid := true } ∧ u.lastStatus = some .ok

/-! ### The filter -/

/-- R124: MATCH. -/
def Obligations.MatchReportsFilter : Prop :=
  encode (.matchFilter .p0) = 0x6C00 ∧ encode (.matchFilter .p1) = 0x6E00 ∧
  ∀ (s : State) (r : PReg),
    exec (.matchFilter r) s = .next (s.answered .ok (matchVal s.toBlock (s.preg r)).toNat [])

/-- R125: RX, its conditions in their order. -/
def Obligations.RxDeliversOrDiscards : Prop :=
  (∀ v, encode (.rx .p0 v) = 0x6800 ||| (BitVec.ofBool v).setWidth 16 <<< 8) ∧
  (∀ v, encode (.rx .p1 v) = 0x6A00 ||| (BitVec.ofBool v).setWidth 16 <<< 8) ∧
  ∀ (s : State) (v : Bool),
    let q := parse s.din
    let m := (matchVal s.toBlock q).toNat
    exec (.rx .p0 v) s = .next
      (if s.din = [] then s.answered .nothing 0 []
      else if v = true ∧ ¬(q.dst = s.cfgAddr ∧ q.port = s.cfgPort) then s.answered .discard m []
      else if q.valid then { s with p0 := q, scanActive := false }.answered .ok m []
      else { s with p0 := emptyPkt, scanActive := false }.answered .empty m []) ∧
    exec (.rx .p1 v) s = .next
      (if s.din = [] then s.answered .nothing 0 []
      else if v = true ∧ ¬(q.dst = s.cfgAddr ∧ q.port = s.cfgPort) then s.answered .discard m []
      else if q.valid then { s with p1 := q }.answered .ok m []
      else { s with p1 := emptyPkt }.answered .empty m [])

/-- R126, R127: the receive loops, over a finite list of receptions (log 19). Receptions that are not to be delivered
change nothing of the block; the first that is to be delivered ends the loop with its parsed packet, or the sentinel, in
the register, the other register and the configuration untouched, and the later receptions not taken. -/
def Obligations.ReceiveLoopDeliversFirst : Prop :=
  ∀ (v : Bool) (r : PReg) (pre rest : List Bytes) (b : Bytes) (s : State),
    (∀ x ∈ pre, ¬s.toBlock.delivers v x) →
    (∃ t, receiveLoop v r pre s = .waiting t ∧ t.toBlock = s.toBlock) ∧
    (s.toBlock.delivers v b →
      ∃ t, receiveLoop v r (pre ++ b :: rest) s = .delivered t rest ∧
        t.preg r = parse b ∧ t.preg r.other = s.preg r.other ∧
        t.cfgAddr = s.cfgAddr ∧ t.cfgPort = s.cfgPort ∧ t.cfgFmt = s.cfgFmt)

/-! ### Grouped extraction -/

/-- R107: XBEGIN. -/
def Obligations.XbeginStartsScan : Prop :=
  encode .xbegin = 0x7000 ∧
  ∀ s : State, exec .xbegin s = .next
    (if s.cfgFmt = .structured ∧ s.p0.flags.getLsbD 7 = true then
      { s with scanOff := 0, scanActive := true }.answered .ok 1 []
    else { s with scanOff := 0, scanActive := false }.answered .ok 0 [])

/-- R108: XNEXT, with its conditions and the field slices as the rule writes them. SCAN_OFF is written in its 11 bits
(the model's truncation, log 9); that the sum fits them in every reachable state is XnextYieldsSubFrame. -/
def Obligations.XnextYieldsNext : Prop :=
  encode .xnext = 0x7400 ∧
  ∀ s : State, exec .xnext s = .next
    (if s.scanActive = false then s.answered .scanEnd 0 []
    else
      let p := s.p0.pay
      let o := s.scanOff.toNat
      if p.length < o + 20 then { s with scanActive := false }.answered .scanEnd 0 []
      else
        let sl := 256 * (p.getD (o + 18) 0).toNat + (p.getD (o + 19) 0).toNat
        if p.length < o + 20 + sl then { s with scanActive := false }.answered .scanEnd 0 []
        else
          let q : Packet :=
            { valid := true, src := fit8 ((p.drop o).take 8), dst := fit8 ((p.drop (o + 8)).take 8),
              port := p.getD (o + 16) 0, flags := p.getD (o + 17) 0, pay := (p.drop (o + 20)).take sl }
          { s with p1 := q, scanOff := BitVec.ofNat 11 (o + 20 + sl) }.answered .ok o ((p.drop o).take (20 + sl)))

/-- R108, R111: in a state of the invariant an OK answer of XNEXT gives the frame of the packet then in `P[1]`, which is
also the parse of those bytes; `rval` is the offset, a whole header within the payload, and SCAN_OFF advances by exactly
the bytes given and stays within the payload. -/
def Obligations.XnextYieldsSubFrame : Prop :=
  ∀ (s t : State) (x : Response), s.Inv → exec .xnext s = .next t → t.responses = s.responses ++ [x] →
    x.status = .ok →
    x.dout = frame t.p1 ∧ t.p1 = parse x.dout ∧ x.rval.toNat = s.scanOff.toNat ∧
    x.rval.toNat + 20 ≤ s.p0.pay.length ∧ t.scanOff.toNat = s.scanOff.toNat + x.dout.length ∧
    t.scanOff.toNat ≤ s.p0.pay.length

/-- R109: XSTAT. -/
def Obligations.XstatReportsCursor : Prop :=
  encode .xstat = 0x7800 ∧
  ∀ s : State, ∃ x : Response,
    exec .xstat s = .next { s with responses := s.responses ++ [x] } ∧
    x.status = .ok ∧ x.dout = [] ∧ x.rval.getLsbD 0 = s.scanActive ∧
    x.rval.extractLsb' 1 11 = s.scanOff ∧ x.rval.extractLsb' 12 20 = 0

/-- R106: which commands end a scan: those listed, and RX into `P[0]` when it delivers; no other command but the grouping
commands changes SCAN_ACTIVE, and none but those changes SCAN_OFF. XNEXT's own write to `P[1]` does not end the scan. -/
def Obligations.ScanEndedExactlyByListed : Prop :=
  (∀ (i : Instr) (s t : State) (x : Response), i ≠ .xbegin → i ≠ .xnext →
    exec i s = .next t → t.responses = s.responses ++ [x] →
    t.scanOff = s.scanOff ∧
    (i.endsScan = true ∨ ((∃ v, i = .rx .p0 v) ∧ (x.status = .ok ∨ x.status = .empty)) →
      t.scanActive = false) ∧
    (¬(i.endsScan = true ∨ ((∃ v, i = .rx .p0 v) ∧ (x.status = .ok ∨ x.status = .empty))) →
      t.scanActive = s.scanActive)) ∧
  ∀ (s t : State) (x : Response), exec .xnext s = .next t → t.responses = s.responses ++ [x] → x.status = .ok →
    t.scanActive = s.scanActive

/-- R110: XBEGIN and XNEXT until END yield `extract` of `P[0]`'s payload when the group flag is set in STRUCTURED format and
nothing otherwise; then the scan is over and `P[0]` is as it was. -/
def Obligations.ScanYieldsExtract : Prop :=
  ∀ s : State, s.p0.wf →
    (extractGroup s).1 = (if s.cfgFmt = .structured ∧ s.p0.isGroup = true then extract s.p0.pay else []) ∧
    (extractGroup s).2.lastStatus = some .scanEnd ∧ (extractGroup s).2.scanActive = false ∧
    (extractGroup s).2.p0 = s.p0

/-- R111: at most a twentieth of the payload's bytes as many sub-packets; more rounds of the loop find no more. -/
def Obligations.ExtractBounds : Prop :=
  ∀ p : Bytes, (extract p).length ≤ p.length / 20 ∧
    (p.length ≤ 1024 → (extract p).length ≤ 51) ∧
    (∀ q ∈ extract p, q.valid = true ∧ q.pay.length + 20 ≤ p.length) ∧
    ∀ fuel, p.length / 20 ≤ fuel → extractFrom p fuel 0 = extract p

/-- R112: the frames of valid packets, concatenated in the payload of a group packet in STRUCTURED format, are extracted as
those packets in order, and then END; a last frame cut short is dropped without error. -/
def Obligations.GroupRoundTrip : Prop :=
  ∀ (s : State) (qs : List Packet) (q : Packet) (k : Nat),
    s.cfgFmt = .structured → s.p0.isGroup = true →
    (∀ a ∈ qs, a.valid = true ∧ a.wf) → q.wf → k < (frame q).length →
    s.p0.pay.length ≤ 1024 → s.p0.pay = qs.flatMap frame ++ (frame q).take k →
    (extractGroup s).1 = qs ∧ (extractGroup s).2.lastStatus = some .scanEnd

/-- R113: rebuilding an outer scan. Decoding the kept outer frame into `P[0]`, XBEGIN and `m` XNEXTs, from any state of the
same format, whatever its packet registers and cursor, answers as XBEGIN (response `b`) and `m` XNEXTs (responses `rs`) did
on the outer packet and reaches the same cursor. When one of those XNEXTs answered OK it reaches the same `P[1]` too;
otherwise neither run has written `P[1]`. -/
def Obligations.RebuiltScanReplays : Prop :=
  ∀ (s s' : State) (m : Nat), s.p0.wf → s'.cfgFmt = s.cfgFmt →
    ∃ t t' b rs x,
      runCommands (assemble { instr := .xbegin } :: List.replicate m (assemble { instr := .xnext })) s = .next t ∧
      runCommands (rebuildScan (frame s.p0) m) s' = .next t' ∧
      t'.p0 = { s.p0 with valid := true } ∧ t'.scanActive = t.scanActive ∧ t'.scanOff = t.scanOff ∧
      rs.length = m ∧ t.responses = s.responses ++ b :: rs ∧ t'.responses = s'.responses ++ x :: b :: rs ∧
      x.status = .ok ∧ b.status = .ok ∧
      ((∃ y ∈ rs, y.status = .ok) → t'.p1 = t.p1) ∧
      ((∀ y ∈ rs, y.status ≠ .ok) → t.p1 = s.p1 ∧ t'.p1 = s'.p1)

/-! ### Whole-machine rules -/

/-- R49: a side-effect-free command changes nothing but the list of responses, and repeated it gives the same response;
a SET_*, NEW, MAKE or DECODE repeated with the same operands leaves the state of the block that it left. -/
def Obligations.RepeatingACommand : Prop :=
  ∀ (i : Instr) (s : State),
    (i.readOnly = true →
      ∃ x, exec i s = .next { s with responses := s.responses ++ [x] } ∧
        exec i { s with responses := s.responses ++ [x] } =
          .next { s with responses := s.responses ++ [x] ++ [x] }) ∧
    (i.readOnly = false → i ≠ .xbegin → i ≠ .xnext → (∀ r v, i ≠ .rx r v) →
      ∃ t u, exec i s = .next t ∧ exec i t = .next u ∧ u.toBlock = t.toBlock)

/-- R141: the side-effect-free commands read back every piece of the block's state: two states on which they all give the
same responses have the same block state. -/
def Obligations.StateIsFullyReadable : Prop :=
  ∀ s s' : State,
    (∀ (i : Instr) (t t' : State) (x x' : Response), i.readOnly = true →
      exec i s = .next t → t.responses = s.responses ++ [x] →
      exec i s' = .next t' → t'.responses = s'.responses ++ [x'] → x = x') →
    s.toBlock = s'.toBlock

/-- The invariant holds at reset (10_state.md R34); that no response has been given then is the model's (log 1). -/
def Obligations.InvariantAtReset : Prop := State.reset.Inv

/-- R21, R28, R29, R37: every step keeps the invariant: payloads of at most 1024 bytes, SCAN_OFF at most 1024, an active
scan only over a GROUP packet in STRUCTURED format with SCAN_OFF within its payload, and no `dout` longer than 1044.
The list of responses is the model's (log 1), and so is what a step on a reset event leaves while reset is asserted, or on
a reset event that changes no level (DESIGN CHOICE, logs 7 and 8). -/
def Obligations.StepKeepsInvariant : Prop :=
  ∀ s t : State, s.Inv → step s = .next t → t.Inv
end

