-- ==== Sys2Proof/Laws/State.lean ====
section
/-! SUPPORT. One lemma per field per update of the state, so that no later proof unfolds a record update. -/

namespace Sys2Proof.Machine

@[simp] theorem State.preg_p0 (s : State) : s.preg .p0 = s.p0 := rfl
@[simp] theorem State.preg_p1 (s : State) : s.preg .p1 = s.p1 := rfl

@[simp] theorem State.setPreg_p0 (s : State) (q : Packet) : s.setPreg .p0 q = { s with p0 := q } := rfl
@[simp] theorem State.setPreg_p1 (s : State) (q : Packet) : s.setPreg .p1 q = { s with p1 := q } := rfl
@[simp] theorem State.endScanIf_p0 (s : State) : s.endScanIf .p0 = s.endScan := rfl
@[simp] theorem State.endScanIf_p1 (s : State) : s.endScanIf .p1 = s := rfl

@[simp] theorem State.endScan_p0 (s : State) : s.endScan.p0 = s.p0 := rfl
@[simp] theorem State.endScan_p1 (s : State) : s.endScan.p1 = s.p1 := rfl
@[simp] theorem State.endScan_cfgAddr (s : State) : s.endScan.cfgAddr = s.cfgAddr := rfl
@[simp] theorem State.endScan_cfgPort (s : State) : s.endScan.cfgPort = s.cfgPort := rfl
@[simp] theorem State.endScan_cfgFmt (s : State) : s.endScan.cfgFmt = s.cfgFmt := rfl
@[simp] theorem State.endScan_scanActive (s : State) : s.endScan.scanActive = false := rfl
@[simp] theorem State.endScan_scanOff (s : State) : s.endScan.scanOff = s.scanOff := rfl
@[simp] theorem State.endScan_arg (s : State) : s.endScan.arg = s.arg := rfl
@[simp] theorem State.endScan_din (s : State) : s.endScan.din = s.din := rfl
@[simp] theorem State.endScan_inReset (s : State) : s.endScan.inReset = s.inReset := rfl
@[simp] theorem State.endScan_inbox (s : State) : s.endScan.inbox = s.inbox := rfl
@[simp] theorem State.endScan_responses (s : State) : s.endScan.responses = s.responses := rfl

/-- A write to `P[0]` ends the scan (43_group.md R106). -/
theorem State.writePreg_p0 (s : State) (q : Packet) :
    s.writePreg .p0 q = { s with p0 := q, scanActive := false } := rfl

/-- A write to `P[1]` writes `P[1]` alone (43_group.md R106). -/
theorem State.writePreg_p1 (s : State) (q : Packet) : s.writePreg .p1 q = { s with p1 := q } := rfl

@[simp] theorem State.writePreg_preg (s : State) (r : PReg) (q : Packet) : (s.writePreg r q).preg r = q := by
  cases r <;> rfl

theorem State.writePreg_preg_ne (s : State) {r r' : PReg} (h : r' ≠ r) (q : Packet) :
    (s.writePreg r q).preg r' = s.preg r' := by
  cases r <;> cases r' <;> first | rfl | exact absurd rfl h

@[simp] theorem State.writePreg_cfgAddr (s : State) (r : PReg) (q : Packet) :
    (s.writePreg r q).cfgAddr = s.cfgAddr := by cases r <;> rfl
@[simp] theorem State.writePreg_cfgPort (s : State) (r : PReg) (q : Packet) :
    (s.writePreg r q).cfgPort = s.cfgPort := by cases r <;> rfl
@[simp] theorem State.writePreg_cfgFmt (s : State) (r : PReg) (q : Packet) :
    (s.writePreg r q).cfgFmt = s.cfgFmt := by cases r <;> rfl
@[simp] theorem State.writePreg_scanOff (s : State) (r : PReg) (q : Packet) :
    (s.writePreg r q).scanOff = s.scanOff := by cases r <;> rfl
@[simp] theorem State.writePreg_arg (s : State) (r : PReg) (q : Packet) :
    (s.writePreg r q).arg = s.arg := by cases r <;> rfl
@[simp] theorem State.writePreg_din (s : State) (r : PReg) (q : Packet) :
    (s.writePreg r q).din = s.din := by cases r <;> rfl
@[simp] theorem State.writePreg_inReset (s : State) (r : PReg) (q : Packet) :
    (s.writePreg r q).inReset = s.inReset := by cases r <;> rfl
@[simp] theorem State.writePreg_inbox (s : State) (r : PReg) (q : Packet) :
    (s.writePreg r q).inbox = s.inbox := by cases r <;> rfl
@[simp] theorem State.writePreg_responses (s : State) (r : PReg) (q : Packet) :
    (s.writePreg r q).responses = s.responses := by cases r <;> rfl

@[simp] theorem State.accept_toBlock (s : State) (c : Command) : (s.accept c).toBlock = s.toBlock := rfl
@[simp] theorem State.accept_arg (s : State) (c : Command) : (s.accept c).arg = c.arg := rfl
@[simp] theorem State.accept_din (s : State) (c : Command) : (s.accept c).din = c.din := rfl
@[simp] theorem State.accept_inReset (s : State) (c : Command) : (s.accept c).inReset = s.inReset := rfl
@[simp] theorem State.accept_inbox (s : State) (c : Command) : (s.accept c).inbox = s.inbox := rfl
@[simp] theorem State.accept_responses (s : State) (c : Command) : (s.accept c).responses = s.responses := rfl

@[simp] theorem State.retire_toBlock (s : State) : s.retire.toBlock = s.toBlock := rfl
@[simp] theorem State.retire_arg (s : State) : s.retire.arg = 0#32 := rfl
@[simp] theorem State.retire_din (s : State) : s.retire.din = [] := rfl
@[simp] theorem State.retire_inReset (s : State) : s.retire.inReset = s.inReset := rfl
@[simp] theorem State.retire_inbox (s : State) : s.retire.inbox = s.inbox := rfl
@[simp] theorem State.retire_responses (s : State) : s.retire.responses = s.responses := rfl

@[simp] theorem State.loadReset_toBlock (s : State) : s.loadReset.toBlock = Block.reset := rfl
@[simp] theorem State.loadReset_arg (s : State) : s.loadReset.arg = 0#32 := rfl
@[simp] theorem State.loadReset_din (s : State) : s.loadReset.din = [] := rfl
@[simp] theorem State.loadReset_inReset (s : State) : s.loadReset.inReset = s.inReset := rfl
@[simp] theorem State.loadReset_inbox (s : State) : s.loadReset.inbox = s.inbox := rfl
@[simp] theorem State.loadReset_responses (s : State) : s.loadReset.responses = s.responses := rfl

@[simp] theorem State.withCommand_toBlock (s : State) (c : Command) : (s.withCommand c).toBlock = s.toBlock := rfl
@[simp] theorem State.withCommand_arg (s : State) (c : Command) : (s.withCommand c).arg = s.arg := rfl
@[simp] theorem State.withCommand_din (s : State) (c : Command) : (s.withCommand c).din = s.din := rfl
@[simp] theorem State.withCommand_inReset (s : State) (c : Command) : (s.withCommand c).inReset = false := rfl
@[simp] theorem State.withCommand_inbox (s : State) (c : Command) :
    (s.withCommand c).inbox = .command c :: s.inbox := rfl
@[simp] theorem State.withCommand_responses (s : State) (c : Command) :
    (s.withCommand c).responses = s.responses := rfl

end Sys2Proof.Machine
end

