-- ==== Sys2Proof/Laws/Ops.lean ====
section
/-! SUPPORT. What each shared operation over byte strings, responses and operands can do, said once. -/

namespace Sys2Proof

theorem Config.hdrLen_eq : Config.hdrLen = 20 := rfl
theorem Config.maxPayload_eq : Config.maxPayload = 1024 := rfl
theorem Config.maxFrame_eq : Config.maxFrame = 1044 := rfl
theorem Config.dinMax_eq : Config.dinMax = 65535 := rfl

end Sys2Proof

namespace Sys2Proof.Machine

theorem slice_eq_take_drop (b : Bytes) (i j : Nat) : slice b i j = (b.drop i).take (j - i) := by
  simp [slice, List.drop_take]

@[simp] theorem slice_length (b : Bytes) (i j : Nat) : (slice b i j).length = min j b.length - i := by
  simp [slice]

theorem slice_zero (b : Bytes) (j : Nat) : slice b 0 j = b.take j := by
  simp [slice]

/-- The slice of a second part, when it starts where the first part ends. -/
theorem slice_append_right (a b : Bytes) (i j : Nat) (h : a.length ≤ i) :
    slice (a ++ b) i j = slice b (i - a.length) (j - a.length) := by
  rw [slice_eq_take_drop, slice_eq_take_drop, List.drop_append, List.drop_eq_nil_of_le h, List.nil_append]
  congr 1
  omega

/-- A byte of a second part. -/
theorem byteAt_append_right (a b : Bytes) (k : Nat) (h : a.length ≤ k) :
    byteAt (a ++ b) k = byteAt b (k - a.length) := by
  simp [byteAt, List.getElem?_append_right h]

theorem byteAt_append_left (a b : Bytes) (k : Nat) (h : k < a.length) : byteAt (a ++ b) k = byteAt a k := by
  simp [byteAt, List.getElem?_append_left h]

theorem byteAt_take (b : Bytes) (k n : Nat) (h : k < n) : byteAt (b.take n) k = byteAt b k := by
  simp [byteAt, h]

theorem bigEndian_take (b : Bytes) (k n : Nat) (h : k + 1 < n) : bigEndian (b.take n) k = bigEndian b k := by
  rw [bigEndian, bigEndian, byteAt_take b k n (by omega), byteAt_take b (k + 1) n h]

theorem bigEndian_append_right (a b : Bytes) (k : Nat) (h : a.length ≤ k) :
    bigEndian (a ++ b) k = bigEndian b (k - a.length) := by
  rw [bigEndian, bigEndian, byteAt_append_right a b k h, byteAt_append_right a b (k + 1) (by omega),
    show k + 1 - a.length = k - a.length + 1 by omega]

theorem bigEndian_append_left (a b : Bytes) (k : Nat) (h : k + 1 < a.length) :
    bigEndian (a ++ b) k = bigEndian a k := by
  rw [bigEndian, bigEndian, byteAt_append_left a b k (by omega), byteAt_append_left a b (k + 1) h]

theorem bigEndian_lt (b : Bytes) (k : Nat) : bigEndian b k < 65536 := by
  have h1 := (byteAt b k).isLt
  have h2 := (byteAt b (k + 1)).isLt
  unfold bigEndian
  omega

/-- A response is given, and nothing else happens (30_encoding.md R66). -/
theorem respond_next {s t : State} {st : Status} {v : Nat} {d : Bytes} (h : respond s st v d = .next t) :
    t = { s with responses := s.responses ++ [{ status := st, rval := zext32 v, dout := d }] } := by
  simpa [respond] using h.symm

/-- The value of a clamped integer, in its three ranges at once. -/
theorem clamp8_toNat (x : Int) : ((clamp8 x).toNat : Int) = max 0 (min x 255) := by
  unfold clamp8 clampN
  split
  · simp; omega
  · split
    · simp; omega
    · simp; omega

/-- `fit8` leaves a string of exactly 8 bytes as it is (40_codec.md R79; log 14). -/
theorem fit8_bytes_of_eight {b : Bytes} (h : b.length = 8) : (fit8 b).bytes = b := by
  simp [fit8, h, List.take_of_length_le]

@[simp] theorem fit8_addr (a : Addr) : fit8 a.bytes = a := Addr.ext (fit8_bytes_of_eight a.size)

@[simp] theorem Addr.length_bytes (a : Addr) : a.bytes.length = 8 := a.size

theorem trimlenBytes_le (b : Bytes) : trimlenBytes b ≤ b.length := by
  induction b with
  | nil => simp [trimlenBytes]
  | cons x xs ih =>
    simp only [trimlenBytes, List.length_cons]
    split <;> omega

/-- The flag byte after a write, bit by bit (42_flags.md R102). -/
theorem setFlagBit_getLsbD (f : BitVec 8) (idx : BitVec 3) (v : Bool) {j : Nat} (hj : j < 8) :
    (setFlagBit f idx v).getLsbD j = if j = 7 - idx.toNat then v else f.getLsbD j := by
  have hm : (flagMask idx).getLsbD j = decide (j = 7 - idx.toNat) := by
    revert idx
    interval_cases j <;> decide
  unfold setFlagBit
  cases v
  · have h255 : (255#8).getLsbD j = true := by interval_cases j <;> rfl
    simp only [Bool.false_eq_true, if_false, BitVec.getLsbD_and, BitVec.getLsbD_xor, hm, h255]
    by_cases hi : j = 7 - idx.toNat <;> simp [hi]
  · simp only [if_true, BitVec.getLsbD_or, hm]
    by_cases hi : j = 7 - idx.toNat <;> simp [hi]

end Sys2Proof.Machine
end

