-- ==== Sys2Proof/Laws/Wire.lean ====
section
/-! SUPPORT. What frame, parse, the sub-packet at an offset and the filter do, said once. -/

namespace Sys2Proof.Machine

/-- The frame as its header bytes and the payload, cons by cons (40_codec.md R81). -/
theorem frame_eq (q : Packet) :
    frame q = q.src.bytes ++ (q.dst.bytes ++ (q.port :: q.flags :: (BitVec.ofNat 16 q.len).extractLsb' 8 8 ::
      (BitVec.ofNat 16 q.len).extractLsb' 0 8 :: q.pay)) := by
  simp [frame]

@[simp] theorem frame_length (q : Packet) : (frame q).length = 20 + q.len := by
  simp [frame_eq, Packet.len]
  omega

/-- Reading back the two length bytes (20_memory.md R42). -/
theorem lenBytes_value {n : Nat} (h : n < 65536) :
    256 * ((BitVec.ofNat 16 n).extractLsb' 8 8).toNat + ((BitVec.ofNat 16 n).extractLsb' 0 8).toNat = n := by
  simp only [BitVec.extractLsb'_toNat, BitVec.toNat_ofNat, Nat.shiftRight_eq_div_pow]
  omega

/-- The fields of a frame that stands after `a` and before `c`: its length field and the packet of its slices. -/
theorem bigEndian_frame (a c : Bytes) {q : Packet} (h : q.len < 65536) :
    bigEndian (a ++ (frame q ++ c)) (a.length + 18) = q.len := by
  rw [bigEndian_append_right _ _ _ (by omega), Nat.add_sub_cancel_left, frame_eq]
  have hs := q.src.size
  have hd := q.dst.size
  rw [List.append_assoc, bigEndian_append_right _ _ _ (by omega), List.append_assoc,
    bigEndian_append_right _ _ _ (by omega), hs, hd]
  simpa [bigEndian, byteAt] using lenBytes_value h

theorem packetAt_frame (a c : Bytes) (q : Packet) :
    packetAt (a ++ (frame q ++ c)) a.length q.len = { q with valid := true } := by
  have hs := q.src.size
  have hd := q.dst.size
  have hsrc : slice (a ++ (frame q ++ c)) a.length (a.length + 8) = q.src.bytes := by
    rw [slice_append_right _ _ _ _ (le_refl _), Nat.sub_self, Nat.add_sub_cancel_left, slice_zero, frame_eq,
      List.append_assoc]
    exact List.take_left' hs
  have hdst : slice (a ++ (frame q ++ c)) (a.length + 8) (a.length + 16) = q.dst.bytes := by
    rw [slice_append_right _ _ _ _ (by omega), Nat.add_sub_cancel_left, Nat.add_sub_cancel_left, frame_eq,
      List.append_assoc, slice_append_right _ _ _ _ (by omega), hs, Nat.sub_self, slice_zero, List.append_assoc]
    exact List.take_left' hd
  have hat : ∀ k, 16 ≤ k → byteAt (a ++ (frame q ++ c)) (a.length + k) =
      byteAt ((q.port :: q.flags :: (BitVec.ofNat 16 q.len).extractLsb' 8 8 ::
        (BitVec.ofNat 16 q.len).extractLsb' 0 8 :: q.pay) ++ c) (k - 16) := by
    intro k hk
    rw [byteAt_append_right _ _ _ (by omega), Nat.add_sub_cancel_left, frame_eq, List.append_assoc,
      byteAt_append_right _ _ _ (by omega), List.append_assoc, byteAt_append_right _ _ _ (by omega), hs, hd]
    congr 1
  have hpay : slice (a ++ (frame q ++ c)) (a.length + 20) (a.length + 20 + q.len) = q.pay := by
    rw [slice_append_right _ _ _ _ (by omega), frame_eq, List.append_assoc,
      slice_append_right _ _ _ _ (by omega), List.append_assoc, slice_append_right _ _ _ _ (by omega), hs, hd,
      show a.length + 20 - a.length - 8 - 8 = 4 by omega,
      show a.length + 20 + q.len - a.length - 8 - 8 = 4 + q.len by omega]
    simp [slice_eq_take_drop, Packet.len]
  rw [packetAt, hsrc, hdst, hpay, hat 16 (le_refl _), hat 17 (by omega), fit8_addr, fit8_addr]
  simp [byteAt]

/-- The frame of the packet taken from slices is the slice itself (43_group.md R108). -/
theorem frame_packetAt {b : Bytes} {o l : Nat} (hl : o + 20 + l ≤ b.length) (he : bigEndian b (o + 18) = l) :
    frame (packetAt b o l) = slice b o (o + 20 + l) := by
  have hlt : l < 65536 := he ▸ bigEndian_lt b (o + 18)
  have hlen : (packetAt b o l).len = l := by simp [packetAt, Packet.len]; omega
  have hsrc : (fit8 (slice b o (o + 8))).bytes = slice b o (o + 8) :=
    fit8_bytes_of_eight (by rw [slice_length]; omega)
  have hdst : (fit8 (slice b (o + 8) (o + 16))).bytes = slice b (o + 8) (o + 16) :=
    fit8_bytes_of_eight (by rw [slice_length]; omega)
  have hhi : (BitVec.ofNat 16 l).extractLsb' 8 8 = byteAt b (o + 18) := by
    apply BitVec.eq_of_toNat_eq
    have h1 := (byteAt b (o + 18)).isLt
    have h2 := (byteAt b (o + 18 + 1)).isLt
    simp only [bigEndian] at he
    simp only [BitVec.extractLsb'_toNat, BitVec.toNat_ofNat, Nat.shiftRight_eq_div_pow]
    omega
  have hlo : (BitVec.ofNat 16 l).extractLsb' 0 8 = byteAt b (o + 19) := by
    apply BitVec.eq_of_toNat_eq
    have h1 := (byteAt b (o + 18)).isLt
    have h2 := (byteAt b (o + 18 + 1)).isLt
    simp only [bigEndian, show o + 18 + 1 = o + 19 by omega] at he h2
    simp only [BitVec.extractLsb'_toNat, BitVec.toNat_ofNat, Nat.shiftRight_eq_div_pow]
    omega
  have hb : ∀ k, k < b.length → byteAt b k :: b.drop (k + 1) = b.drop k := by
    intro k hk
    rw [List.drop_eq_getElem_cons hk]
    simp [byteAt, hk]
  rw [frame_eq, hlen, hhi, hlo]
  simp only [packetAt, hsrc, hdst]
  rw [slice_eq_take_drop, slice_eq_take_drop, slice_eq_take_drop, slice_eq_take_drop]
  have e : ∀ m n (x : Bytes), x.take m ++ (x.drop m).take n = x.take (m + n) := by
    intro m n x; rw [List.take_add]
  have d4 : byteAt b (o + 16) :: byteAt b (o + 17) :: byteAt b (o + 18) :: byteAt b (o + 19) ::
      (b.drop (o + 20)).take (o + 20 + l - (o + 20)) = (b.drop (o + 16)).take (4 + l) := by
    rw [← hb (o + 16) (by omega), ← hb (o + 16 + 1) (by omega), ← hb (o + 16 + 1 + 1) (by omega),
      ← hb (o + 16 + 1 + 1 + 1) (by omega), show 4 + l = l + 1 + 1 + 1 + 1 by omega,
      show o + 20 + l - (o + 20) = l by omega]
    simp only [List.take_succ_cons, Nat.add_assoc, Nat.reduceAdd]
  rw [d4, show o + 8 - o = 8 by omega, show o + 16 - (o + 8) = 8 by omega,
    show o + 20 + l - o = 8 + (8 + (4 + l)) by omega]
  have h16 : b.drop (o + 16) = (b.drop (o + 8)).drop 8 := by rw [List.drop_drop]
  have h8 : b.drop (o + 8) = (b.drop o).drop 8 := by rw [List.drop_drop]
  rw [h16, e, h8, e]

theorem subLenAt_some {p : Bytes} {o sl : Nat} :
    subLenAt p o = some sl ↔ o + 20 + sl ≤ p.length ∧ bigEndian p (o + 18) = sl := by
  unfold subLenAt
  split
  · simp; omega
  · simp only
    split
    · simp; omega
    · simp; omega

theorem subLenAt_none {p : Bytes} {o : Nat} :
    subLenAt p o = none ↔ p.length < o + 20 + bigEndian p (o + 18) ∨ p.length < o + 20 := by
  unfold subLenAt
  split
  · simp; omega
  · simp only
    split
    · simp; omega
    · simp; omega

/-- Everything a parse can answer (40_codec.md R82). -/
theorem parse_cases (b : Bytes) :
    (parse b = emptyPkt ∧ (b.length < 20 ∨ 1024 < bigEndian b 18 ∨ b.length < 20 + bigEndian b 18)) ∨
    (parse b = packetAt b 0 (bigEndian b 18) ∧ 20 + bigEndian b 18 ≤ b.length ∧ bigEndian b 18 ≤ 1024) := by
  unfold parse
  simp only [Config.hdrLen_eq, Config.maxPayload_eq]
  split
  · left; exact ⟨rfl, .inl ‹_›⟩
  · split
    · left; exact ⟨rfl, .inr (.inl ‹_›)⟩
    · split
      · left; exact ⟨rfl, .inr (.inr ‹_›)⟩
      · right; exact ⟨rfl, by omega, by omega⟩

theorem parse_wf (b : Bytes) : (parse b).wf := by
  obtain ⟨h, -⟩ | ⟨h, -, hl⟩ := parse_cases b
  · rw [h]; simp [Packet.wf, emptyPkt]
  · rw [h]; simp only [Packet.wf, packetAt, slice_length, Config.maxPayload_eq]; omega

/-- A failed parse is the sentinel, and only the sentinel has VALID 0. -/
theorem parse_empty_of_invalid {b : Bytes} (h : (parse b).valid = false) : parse b = emptyPkt := by
  obtain ⟨he, -⟩ | ⟨hp, -, -⟩ := parse_cases b
  · exact he
  · rw [hp] at h; simp [packetAt] at h

end Sys2Proof.Machine
end

