-- ==== Sys2Proof/Laws/Exec.lean ====
section
/-! SUPPORT. What a command, an event and a step can do, said once. -/

namespace Sys2Proof.Machine

/-- What every command leaves alone: the channels, the reset input and the host's events; and it gives one response. -/
structure Answers (s t : State) : Prop where
  arg : t.arg = s.arg
  din : t.din = s.din
  inReset : t.inReset = s.inReset
  inbox : t.inbox = s.inbox
  one : ∃ x, t.responses = s.responses ++ [x]

theorem respond_answers {s u : State} {st : Status} {v : Nat} {d : Bytes} (ha : u.arg = s.arg) (hd : u.din = s.din)
    (hr : u.inReset = s.inReset) (hi : u.inbox = s.inbox) (hx : u.responses = s.responses) :
    ∃ t, respond u st v d = .next t ∧ Answers s t :=
  ⟨_, rfl, ⟨ha, hd, hr, hi, _, congrArg (· ++ _) hx⟩⟩

/-- Every command answers a next state with one response (60_exceptions.md R129, 30_encoding.md R58). -/
theorem exec_answers (i : Instr) (s : State) : ∃ t, exec i s = .next t ∧ Answers s t := by
  cases i with
  | decode r =>
    simp only [exec, execDecode]
    split <;> exact respond_answers (by simp) (by simp) (by simp) (by simp) (by simp)
  | rx r v =>
    simp only [exec, execRx]
    split
    · exact respond_answers rfl rfl rfl rfl rfl
    · split
      · exact respond_answers rfl rfl rfl rfl rfl
      · split <;> exact respond_answers (by simp) (by simp) (by simp) (by simp) (by simp)
  | xnext =>
    simp only [exec, execXnext]
    split
    · split <;> exact respond_answers rfl rfl rfl rfl rfl
    · exact respond_answers rfl rfl rfl rfl rfl
  | _ => exact respond_answers (by simp) (by simp) (by simp) (by simp) (by simp)

/-- The step with nothing pending. -/
theorem step_of_inbox_nil {s : State} (h : s.inbox = []) : step s = .next s := by
  simp only [step, portStep, h]

/-- The step takes the next event from the host's list. -/
theorem step_of_inbox_cons {s : State} {e : HostEvent} {rest : List HostEvent} (h : s.inbox = e :: rest) :
    step s = hostEvent e { s with inbox := rest } := by
  simp only [step, portStep, h]

/-- A run of the machine goes on from the next state. -/
theorem core_run_succ_of_next {k : Nat} {s t : State} (h : step s = .next t) :
    Host.Core.run core (k + 1) s = Host.Core.run core k t := by
  have h' : core.step s = .next t := h
  simp only [Host.Core.run, h']

/-- A legal command that can be issued is executed with its operands on the channels. -/
theorem runCommand_of_legal {c : Command} {i : Instr} (hd : c.din.length ≤ 65535)
    (hi : Sys2Proof.decode c.word = .legal i) (s : State) :
    ∃ t, exec i (s.accept c) = .next t ∧ runCommand c s = .next t.retire ∧ Answers (s.accept c) t := by
  obtain ⟨t, ht, ha⟩ := exec_answers i (s.accept c)
  refine ⟨t, ht, ?_, ha⟩
  have hn : ¬c.din.length > Config.dinMax := by rw [Config.dinMax_eq]; omega
  simp only [runCommand, hn, if_false, hi, ht, afterExec]

/-- An illegal command word is answered ILLEGAL. -/
theorem runCommand_of_illegal {c : Command} {why : Illegal} (hd : c.din.length ≤ 65535)
    (hi : Sys2Proof.decode c.word = .illegal why) (s : State) :
    runCommand c s = afterExec (respondIllegal (s.accept c)) := by
  have hn : ¬c.din.length > Config.dinMax := by rw [Config.dinMax_eq]; omega
  simp only [runCommand, hn, if_false, hi]

end Sys2Proof.Machine
end

