-- ==== Sys2Proof/Laws/PerInstr.lean ====
section
/-! SUPPORT. The per-instruction family EncodedFields: the fields read from an encoded word are the fields the opcode map
gives the instruction (30_encoding.md R59, R69, R74). -/

namespace Sys2Proof.Laws.EncodedFields

/-- Every field of the encoded word reads back as it was written; the reserved bits are 0. -/
def Statement (i : Instr) : Prop := fieldsOf (encode i) = fieldsOfInstr i ∧ (fieldsOfInstr i).rsv = 0#5

theorem nop : Statement (.nop) :=
  ⟨by decide, rfl⟩

theorem cfgSetAddr : Statement (.cfgSetAddr) :=
  ⟨by decide, rfl⟩

theorem cfgSetPort : Statement (.cfgSetPort) :=
  ⟨by decide, rfl⟩

theorem cfgSetFmt (v : Bool) : Statement (.cfgSetFmt v) :=
  ⟨by cases v <;> decide, by cases v <;> rfl⟩

theorem cfgGetAddr : Statement (.cfgGetAddr) :=
  ⟨by decide, rfl⟩

theorem cfgGetPort : Statement (.cfgGetPort) :=
  ⟨by decide, rfl⟩

theorem cfgGetFmt : Statement (.cfgGetFmt) :=
  ⟨by decide, rfl⟩

theorem new (r : PReg) : Statement (.new r) :=
  ⟨by cases r <;> decide, by cases r <;> rfl⟩

theorem make (r : PReg) : Statement (.make r) :=
  ⟨by cases r <;> decide, by cases r <;> rfl⟩

theorem setSrc (r : PReg) : Statement (.setSrc r) :=
  ⟨by cases r <;> decide, by cases r <;> rfl⟩

theorem setDst (r : PReg) : Statement (.setDst r) :=
  ⟨by cases r <;> decide, by cases r <;> rfl⟩

theorem setPort (r : PReg) : Statement (.setPort r) :=
  ⟨by cases r <;> decide, by cases r <;> rfl⟩

theorem setFlags (r : PReg) : Statement (.setFlags r) :=
  ⟨by cases r <;> decide, by cases r <;> rfl⟩

theorem setPayload (r : PReg) : Statement (.setPayload r) :=
  ⟨by cases r <;> decide, by cases r <;> rfl⟩

theorem setFlag (r : PReg) (v : Bool) (idx : BitVec 3) : Statement (.setFlag r v idx) :=
  ⟨by cases r <;> cases v <;> revert idx <;> decide, by cases r <;> rfl⟩

theorem getSrc (r : PReg) : Statement (.getSrc r) :=
  ⟨by cases r <;> decide, by cases r <;> rfl⟩

theorem getDst (r : PReg) : Statement (.getDst r) :=
  ⟨by cases r <;> decide, by cases r <;> rfl⟩

theorem getPort (r : PReg) : Statement (.getPort r) :=
  ⟨by cases r <;> decide, by cases r <;> rfl⟩

theorem getFlags (r : PReg) : Statement (.getFlags r) :=
  ⟨by cases r <;> decide, by cases r <;> rfl⟩

theorem getLen (r : PReg) : Statement (.getLen r) :=
  ⟨by cases r <;> decide, by cases r <;> rfl⟩

theorem getPayload (r : PReg) : Statement (.getPayload r) :=
  ⟨by cases r <;> decide, by cases r <;> rfl⟩

theorem getFlag (r : PReg) (idx : BitVec 3) : Statement (.getFlag r idx) :=
  ⟨by cases r <;> revert idx <;> decide, by cases r <;> rfl⟩

theorem getValid (r : PReg) : Statement (.getValid r) :=
  ⟨by cases r <;> decide, by cases r <;> rfl⟩

theorem encode (r : PReg) : Statement (.encode r) :=
  ⟨by cases r <;> decide, by cases r <;> rfl⟩

theorem decode (r : PReg) : Statement (.decode r) :=
  ⟨by cases r <;> decide, by cases r <;> rfl⟩

theorem rx (r : PReg) (v : Bool) : Statement (.rx r v) :=
  ⟨by cases r <;> cases v <;> decide, by cases r <;> cases v <;> rfl⟩

theorem matchFilter (r : PReg) : Statement (.matchFilter r) :=
  ⟨by cases r <;> decide, by cases r <;> rfl⟩

theorem xbegin : Statement (.xbegin) :=
  ⟨by decide, rfl⟩

theorem xnext : Statement (.xnext) :=
  ⟨by decide, rfl⟩

theorem xstat : Statement (.xstat) :=
  ⟨by decide, rfl⟩

end Sys2Proof.Laws.EncodedFields
end

