-- ==== Sys2Proof/Tests/Slice0.lean ====
section
/-! SUPPORT. Tests. The expected results are the spec's: the encoding tables of 30_encoding.md and the vectors of
95_test_vectors.md, named in the comments. Then one witness for each obligation that has hypotheses. -/

open Sys2Proof Sys2Proof.Machine

namespace Sys2Proof.Tests

/-! ### Well-formedness: one ill-formed term for each check -/

/-- A legal NEW, the base of the ill-formed ones. -/
def newFields : CmdFields := { op := 0x08, r := true, v := false, rsv := 0, idx := 0 }

theorem test_wf_new : newFields.wellFormed = true := by decide
theorem test_wf_refuses_op_07 : { newFields with op := 0x07, r := false }.wellFormed = false := by decide
theorem test_wf_refuses_op_1F : { newFields with op := 0x1F, r := false }.wellFormed = false := by decide
theorem test_wf_refuses_op_3F : { newFields with op := 0x3F, r := false }.wellFormed = false := by decide
theorem test_wf_refuses_rsv : { newFields with rsv := 0x10 }.wellFormed = false := by decide
theorem test_wf_refuses_r : { newFields with op := 0x1C }.wellFormed = false := by decide
theorem test_wf_refuses_v : { newFields with v := true }.wellFormed = false := by decide
theorem test_wf_refuses_idx : { newFields with idx := 1 }.wellFormed = false := by decide
theorem test_wf_refuses_long_din :
    Command.wellFormed { word := 0x2000, arg := 0, din := List.replicate 65536 0 } = false := by
  simp only [Command.wellFormed, List.length_replicate]; decide

/-! ### Decoding: the words of 30_encoding.md R59, R69, bit by bit (op, r, v, rsv, idx) -/

theorem test_decode_nop : decode 0b000000_0_0_00000_000 = .legal .nop := by decide
theorem test_decode_cfgSetAddr : decode 0b000001_0_0_00000_000 = .legal .cfgSetAddr := by decide
theorem test_decode_cfgSetPort : decode 0b000010_0_0_00000_000 = .legal .cfgSetPort := by decide
theorem test_decode_cfgSetFmt : decode 0b000011_0_1_00000_000 = .legal (.cfgSetFmt true) := by decide
theorem test_decode_cfgGetAddr : decode 0b000100_0_0_00000_000 = .legal .cfgGetAddr := by decide
theorem test_decode_cfgGetPort : decode 0b000101_0_0_00000_000 = .legal .cfgGetPort := by decide
theorem test_decode_cfgGetFmt : decode 0b000110_0_0_00000_000 = .legal .cfgGetFmt := by decide
theorem test_decode_new : decode 0b001000_1_0_00000_000 = .legal (.new .p1) := by decide
theorem test_decode_make : decode 0b001001_0_0_00000_000 = .legal (.make .p0) := by decide
theorem test_decode_setSrc : decode 0b001010_1_0_00000_000 = .legal (.setSrc .p1) := by decide
theorem test_decode_setDst : decode 0b001011_0_0_00000_000 = .legal (.setDst .p0) := by decide
theorem test_decode_setPort : decode 0b001100_1_0_00000_000 = .legal (.setPort .p1) := by decide
theorem test_decode_setFlags : decode 0b001101_0_0_00000_000 = .legal (.setFlags .p0) := by decide
theorem test_decode_setPayload : decode 0b001110_1_0_00000_000 = .legal (.setPayload .p1) := by decide
theorem test_decode_setFlag : decode 0b001111_0_1_00000_011 = .legal (.setFlag .p0 true 3) := by decide
theorem test_decode_getSrc : decode 0b010000_1_0_00000_000 = .legal (.getSrc .p1) := by decide
theorem test_decode_getDst : decode 0b010001_0_0_00000_000 = .legal (.getDst .p0) := by decide
theorem test_decode_getPort : decode 0b010010_1_0_00000_000 = .legal (.getPort .p1) := by decide
theorem test_decode_getFlags : decode 0b010011_0_0_00000_000 = .legal (.getFlags .p0) := by decide
theorem test_decode_getLen : decode 0b010100_1_0_00000_000 = .legal (.getLen .p1) := by decide
theorem test_decode_getPayload : decode 0b010101_0_0_00000_000 = .legal (.getPayload .p0) := by decide
theorem test_decode_getFlag : decode 0b010110_1_0_00000_110 = .legal (.getFlag .p1 6) := by decide
theorem test_decode_getValid : decode 0b010111_0_0_00000_000 = .legal (.getValid .p0) := by decide
theorem test_decode_encode : decode 0b011000_1_0_00000_000 = .legal (.encode .p1) := by decide
theorem test_decode_decode : decode 0b011001_0_0_00000_000 = .legal (.decode .p0) := by decide
theorem test_decode_rx : decode 0b011010_1_1_00000_000 = .legal (.rx .p1 true) := by decide
theorem test_decode_matchFilter : decode 0b011011_0_0_00000_000 = .legal (.matchFilter .p0) := by decide
theorem test_decode_xbegin : decode 0b011100_0_0_00000_000 = .legal .xbegin := by decide
theorem test_decode_xnext : decode 0b011101_0_0_00000_000 = .legal .xnext := by decide
theorem test_decode_xstat : decode 0b011110_0_0_00000_000 = .legal .xstat := by decide

/-- 95_test_vectors.md 2.6: the illegal words. -/
theorem test_decode_illegal :
    decodeTableWord 16 0x0200 = none ∧ decodeTableWord 16 0x0100 = none ∧ decodeTableWord 16 0x1C00 = none ∧
    decodeTableWord 16 0x7C00 = none ∧ decodeTableWord 16 0xFC00 = none ∧ decodeTableWord 16 0x2008 = none ∧
    decodeTableWord 16 0x2080 = none ∧ decodeTableWord 16 0x2100 = none ∧ decodeTableWord 16 0x7100 = none ∧
    decodeTableWord 16 0x7200 = none ∧ decodeTableWord 16 0x7401 = none ∧ decodeTableWord 16 0x3201 = none ∧
    decodeTableWord 16 0x3FFF = none := by decide

/-! ### The assembler's line (30_encoding.md R75, R76) -/

theorem test_assemble_setFlag : (assemble { instr := .setFlag .p0 true 0 }).word = 0x3D00 := by decide
theorem test_assemble_rxf : (assemble { instr := expandPseudo (.rxf .p1) }).word = 0x6B00 := by decide
theorem test_assemble_arg : (assemble { instr := .setPort .p0, arg := some (-1) }).arg = 0xFFFFFFFF := by decide
theorem test_assemble_text : (assemble { instr := .nop, din := some [.text "HI", .pad8 "BOB"] }).din =
    [0x48, 0x49, 0x42, 0x4F, 0x42, 0x20, 0x20, 0x20, 0x20, 0x20] := by decide
theorem test_assemble_din : (assemble { instr := .nop, din := some [.hex [1, 2], .hex [3]] }).din = [1, 2, 3] := by decide

/-! ### One step each -/

/-- The state after one command issued at `s`, taken through the step. -/
def after (s : State) (i : Instr) (arg : Int := 0) (din : Bytes := []) : State :=
  match step (s.withCommand { word := encode i, arg := BitVec.ofInt 32 arg, din := din }) with
  | .next t => t
  | .fault _ => s
  | .refused _ => s

/-- The response to one command issued at `s`. -/
def answer (s : State) (i : Instr) (arg : Int := 0) (din : Bytes := []) : Option (Status × Nat × Bytes) :=
  (after s i arg din).responses.getLast?.map fun x => (x.status, x.rval.toNat, x.dout)

/-- `F_HI` of 95_test_vectors.md: the frame of ALICE, BOB, 7, "HI". -/
def frameHi : Bytes :=
  [0x41, 0x4C, 0x49, 0x43, 0x45, 0x20, 0x20, 0x20, 0x42, 0x4F, 0x42, 0x20, 0x20, 0x20, 0x20, 0x20, 7, 0, 0, 2, 0x48, 0x49]

/-- `F_A` of 95_test_vectors.md. -/
def frameA : Bytes :=
  [0x53, 0x31, 0x20, 0x20, 0x20, 0x20, 0x20, 0x20, 0x44, 0x31, 0x20, 0x20, 0x20, 0x20, 0x20, 0x20, 1, 0, 0, 1, 0x61]

/-- `F_B` of 95_test_vectors.md. -/
def frameB : Bytes :=
  [0x53, 0x32, 0x20, 0x20, 0x20, 0x20, 0x20, 0x20, 0x44, 0x32, 0x20, 0x20, 0x20, 0x20, 0x20, 0x20, 2, 0x40, 0, 0]

/-- `F("NODE2", 5)` of 95_test_vectors.md. -/
def frameNode2 : Bytes :=
  [0x4E, 0x4F, 0x44, 0x45, 0x39, 0x20, 0x20, 0x20, 0x4E, 0x4F, 0x44, 0x45, 0x32, 0x20, 0x20, 0x20, 5, 0, 0, 1, 0x78]

/-- "NODE1" as eight bytes. -/
def node1 : Bytes := [0x4E, 0x4F, 0x44, 0x45, 0x31, 0x20, 0x20, 0x20]

/-- The reset state with the local address NODE1 and the local port 5 (95_test_vectors.md W7). -/
def configured : State := { State.reset with cfgAddr := { bytes := node1, size := rfl }, cfgPort := 5 }

/-- The reset state with ALICE's packet in `P[0]`, its FLAGS `f`. -/
def alice (f : BitVec 8) : State :=
  { State.reset with p0 :=
    { valid := true, src := { bytes := [0x41, 0x4C, 0x49, 0x43, 0x45, 0x20, 0x20, 0x20], size := rfl },
      dst := { bytes := [0x42, 0x4F, 0x42, 0x20, 0x20, 0x20, 0x20, 0x20], size := rfl }, port := 7, flags := f,
      pay := [0x48, 0x49] } }

/-- A group packet over `pay` in `P[0]`, with a scan active at offset `off`. -/
def scanning (pay : Bytes) (off : BitVec 11) : State :=
  { State.reset with p0 := { emptyPkt with flags := 0x80, pay := pay }, scanActive := true, scanOff := off }

/-- N-18. -/
theorem test_nop : answer State.reset .nop = some (.ok, 0, []) := by decide
/-- N-3: nine characters keep the first eight. -/
theorem test_cfgSetAddr :
    (after State.reset .cfgSetAddr 0 [0x4E, 0x4F, 0x44, 0x45, 0x31, 0x32, 0x33, 0x34, 0x35]).cfgAddr.bytes =
      [0x4E, 0x4F, 0x44, 0x45, 0x31, 0x32, 0x33, 0x34] := by decide
/-- N-4, and the clamp vector 0x80000000. -/
theorem test_cfgSetPort : (after State.reset .cfgSetPort 300).cfgPort = 255 ∧
    (after configured .cfgSetPort (-2147483648)).cfgPort = 0 := by decide
/-- G-10: writing the format ends a scan. -/
theorem test_cfgSetFmt : (after (scanning frameA 0) (.cfgSetFmt false)).scanActive = false ∧
    (after State.reset (.cfgSetFmt true)).cfgFmt = .legacy := by decide
/-- W7's address. -/
theorem test_cfgGetAddr : answer configured .cfgGetAddr = some (.ok, 5, node1) := by decide
theorem test_cfgGetPort : answer configured .cfgGetPort = some (.ok, 5, []) := by decide
/-- N-5. -/
theorem test_cfgGetFmt : answer { State.reset with cfgFmt := .legacy } .cfgGetFmt = some (.ok, 1, []) := by decide
/-- W1. -/
theorem test_new : (after State.reset (.new .p0) 7 (frameHi.take 16 ++ [0x48, 0x49])).p0 = (alice 0).p0 := by decide
/-- K-1: a short `din` and a negative port. -/
theorem test_new_short : (after State.reset (.new .p1) (-7) [0x41, 0x42]).p1 =
    { emptyPkt with valid := true, src := { bytes := [0x41, 0x42, 0x20, 0x20, 0x20, 0x20, 0x20, 0x20], size := rfl } } := by
  decide
/-- N-8. -/
theorem test_make :
    (after configured (.make .p0) 0 [0x4E, 0x4F, 0x44, 0x45, 0x32, 0x20, 0x20, 0x20, 0x50, 0x49]).p0 =
      { valid := true, src := { bytes := node1, size := rfl },
        dst := { bytes := [0x4E, 0x4F, 0x44, 0x45, 0x32, 0x20, 0x20, 0x20], size := rfl }, port := 5, flags := 0,
        pay := [0x50, 0x49] } := by decide
/-- K-4. -/
theorem test_setSrc :
    (after State.reset (.setSrc .p1) 0 [0x41, 0x42, 0x43, 0x44, 0x45, 0x46, 0x47, 0x48, 0x49, 0x4A]).p1.src.bytes =
      [0x41, 0x42, 0x43, 0x44, 0x45, 0x46, 0x47, 0x48] := by decide
/-- K-6, with the other address left alone. -/
theorem test_setDst : (after (alice 0) (.setDst .p0) 0 (node1.take 5)).p0.dst.bytes = node1 ∧
    (after (alice 0) (.setDst .p0) 0 (node1.take 5)).p0.src = (alice 0).p0.src := by decide
/-- The clamp vectors 256 and -1. -/
theorem test_setPort : (after State.reset (.setPort .p0) 256).p0.port = 255 ∧
    (after (alice 0) (.setPort .p0) (-1)).p0.port = 0 := by decide
/-- K-10, G-9: VALID is kept; a write to `P[1]` keeps the scan, one to `P[0]` ends it. -/
theorem test_setPort_scan : (after (scanning frameA 21) (.setPort .p1) 4).scanActive = true ∧
    (after (scanning frameA 21) (.setPort .p0) 4).scanActive = false ∧
    (after State.reset (.setPort .p0) 5).p0.valid = false := by decide
/-- F-8, F-9. -/
theorem test_setFlags : (after (alice 0x41) (.setFlags .p0) 300).p0.flags = 0xFF ∧
    (after (alice 0x41) (.setFlags .p0) (-1)).p0.flags = 0 := by decide
/-- K-7, FLAGS untouched (41_packet.md R92). -/
theorem test_setPayload : (after (alice 0x80) (.setPayload .p0) 0 [0x48, 0x45, 0x4C]).p0 =
    { (alice 0x80).p0 with pay := [0x48, 0x45, 0x4C] } := by decide
/-- F-1, F-2, F-3, F-4. -/
theorem test_setFlag : (after (alice 0) (.setFlag .p0 true 0)).p0.flags = 0x80 ∧
    (after (alice 0) (.setFlag .p0 true 7)).p0.flags = 0x01 ∧
    (after (alice 0xFF) (.setFlag .p0 false 3)).p0.flags = 0xEF ∧
    (after (alice 0x41) (.setFlag .p0 true 0)).p0.flags = 0xC1 := by decide
/-- W1's packet. -/
theorem test_getSrc : answer (alice 0) (.getSrc .p0) = some (.ok, 5, frameHi.take 8) := by decide
theorem test_getDst :
    answer (alice 0) (.getDst .p0) = some (.ok, 3, [0x42, 0x4F, 0x42, 0x20, 0x20, 0x20, 0x20, 0x20]) := by decide
theorem test_getPort : answer (alice 0) (.getPort .p0) = some (.ok, 7, []) := by decide
/-- F-10. -/
theorem test_getFlags : answer (alice 0xEF) (.getFlags .p0) = some (.ok, 0xEF, []) := by decide
theorem test_getLen : answer (alice 0) (.getLen .p0) = some (.ok, 2, []) := by decide
theorem test_getPayload : answer (alice 0) (.getPayload .p0) = some (.ok, 2, [0x48, 0x49]) := by decide
/-- F-6, F-7. -/
theorem test_getFlag : answer (alice 0x40) (.getFlag .p0 1) = some (.ok, 1, []) ∧
    answer (alice 0x40) (.getFlag .p0 0) = some (.ok, 0, []) := by decide
/-- K-9, K-11. -/
theorem test_getValid : answer State.reset (.getValid .p0) = some (.ok, 0, []) ∧
    answer (alice 0) (.getValid .p0) = some (.ok, 1, []) := by decide
/-- E-1. -/
theorem test_encode : answer (alice 0) (.encode .p0) = some (.ok, 22, frameHi) := by decide
/-- E-2. -/
theorem test_encode_empty :
    answer State.reset (.encode .p0) = some (.ok, 20, List.replicate 16 0x20 ++ [0, 0, 0, 0]) := by decide
/-- D-1; bytes after the frame are ignored (D-6). -/
theorem test_decode_frame : (after State.reset (.decode .p0) 0 (frameHi ++ [0x78])).p0 = (alice 0).p0 ∧
    answer State.reset (.decode .p0) 0 frameHi = some (.ok, 2, []) := by decide
/-- D-5, D-10: the payload is incomplete, the length is too large. -/
theorem test_decode_fails :
    answer (alice 0) (.decode .p0) 0 (List.replicate 18 0 ++ [0, 1]) = some (.empty, 0, []) ∧
    (after (alice 0) (.decode .p0) 0 (List.replicate 18 0 ++ [0xFF, 0xFF])).p0 = emptyPkt := by decide
/-- W7, N-13, N-14. -/
theorem test_rx : answer configured (.rx .p0 true) 0 frameNode2 = some (.discard, 0xA, []) ∧
    (after configured (.rx .p0 true) 0 frameNode2).p0 = emptyPkt ∧
    answer configured (.rx .p0 true) = some (.nothing, 0, []) ∧
    answer configured (.rx .p0 false) 0 frameNode2 = some (.ok, 0xA, []) := by decide
/-- N-7, N-12, N-15: a failed parse is filtered like any other. -/
theorem test_rx_empty : answer State.reset (.rx .p0 true) 0 [0, 0, 0, 0, 0] = some (.empty, 7, []) ∧
    answer configured (.rx .p0 true) 0 [1, 2, 3] = some (.discard, 0, []) ∧
    answer configured (.rx .p0 false) 0 [1, 2, 3] = some (.empty, 0, []) := by decide
/-- N-6. -/
theorem test_matchFilter : answer State.reset (.matchFilter .p0) = some (.ok, 7, []) := by decide
/-- 43_group.md R107's example, and P4's LEGACY line. -/
theorem test_xbegin : answer (alice 0x80) .xbegin = some (.ok, 1, []) ∧ answer (alice 0x7F) .xbegin = some (.ok, 0, []) ∧
    answer { alice 0x80 with cfgFmt := .legacy } .xbegin = some (.ok, 0, []) := by decide
/-- G-1's second XNEXT. -/
theorem test_xnext : answer (scanning (frameA ++ frameB) 21) .xnext = some (.ok, 21, frameB) ∧
    (after (scanning (frameA ++ frameB) 21) .xnext).p1.flags = 0x40 := by decide
/-- G-3, G-11: too few bytes for a header ends the scan; no scan is active. -/
theorem test_xnext_end : answer (scanning (frameA ++ frameB.take 19) 21) .xnext = some (.scanEnd, 0, []) ∧
    (after (scanning (frameA ++ frameB.take 19) 21) .xnext).scanActive = false ∧
    answer State.reset .xnext = some (.scanEnd, 0, []) := by decide
/-- G-1: 1 | 21 << 1. -/
theorem test_xstat : answer (scanning (frameA ++ frameB) 21) .xstat = some (.ok, 0x2B, []) := by decide
/-- 30_encoding.md R71: an illegal word in G-9's state. -/
theorem test_illegal : step ((scanning frameA 21).withFetchWord 16 0x3201) =
    .next { scanning frameA 21 with responses := [{ status := .illegal, rval := 0, dout := [] }] } := rfl
/-- `withFetchWord` (log 2): the next step runs that word's command. -/
theorem test_withFetchWord : step (State.reset.withFetchWord 16 0x3D00) =
    .next { State.reset with p0 := { emptyPkt with flags := 0x80 },
                             responses := [{ status := .ok, rval := 0, dout := [] }] } := rfl

/-! ### Witnesses: states and operands that meet the hypotheses of the obligations, each clause at a boundary value -/

/-- A command with no operands. -/
def plain (i : Instr) : Command := { word := encode i, arg := 0, din := [] }

/-- A command with the longest `din`, 65535 bytes. -/
def longest : Command := { word := 0x6400, arg := 0, din := List.replicate 65535 0 }

theorem longest_length : longest.din.length = 65535 := List.length_replicate

/-- The reset state with the host's events `es` to come. -/
def facing (es : List HostEvent) : State := { State.reset with inbox := es }

/-- A packet with `n` zero bytes of payload. -/
def zeros (n : Nat) : Packet := { emptyPkt with valid := true, pay := List.replicate n 0 }

/-- A frame of `n` payload bytes by its header's count, `m` bytes of them present. -/
def framed (hi lo : Byte) (m : Nat) : Bytes := List.replicate 18 0 ++ [hi, lo] ++ List.replicate m 0

theorem framed_length (hi lo : Byte) (m : Nat) : (framed hi lo m).length = 20 + m := by
  simp only [framed, List.length_append, List.length_replicate, List.length_cons, List.length_nil]

theorem framed_declares (hi lo : Byte) (m : Nat) :
    (framed hi lo m).getD 18 0 = hi ∧ (framed hi lo m).getD 19 0 = lo := ⟨rfl, rfl⟩

theorem zeros_wf {n : Nat} (h : n ≤ 1024) : (zeros n).wf := by
  simpa [Packet.wf, zeros] using h

theorem witness_EncodeOfDecodeIsWord : decode 0x3F07 = .legal (.setFlag .p1 true 7) := by decide

theorem witness_StepRunsDecodedCommand :
    (facing [.command longest]).inReset = false ∧ (facing [.command longest]).inbox = .command longest :: [] ∧
    longest.din.length ≤ 65535 ∧ decode longest.word = .legal (.decode .p0) :=
  ⟨rfl, rfl, le_of_eq longest_length, by decide⟩

theorem witness_IllegalWordAnsweredIllegal :
    decode ({ longest with word := 0x3FFF } : Command).word = .illegal .reservedBits ∧
    ({ longest with word := 0x3FFF } : Command).din.length ≤ 65535 :=
  ⟨by decide, le_of_eq longest_length⟩

theorem witness_EveryCommandGetsOneResponse : longest.din.length ≤ 65535 ∧ (plain .nop).din.length ≤ 65535 :=
  ⟨le_of_eq longest_length, by decide⟩

theorem witness_IdleBlockHoldsState : State.reset.inbox = [] := rfl

theorem witness_ResetAcceptsNothingAndRestoresAll :
    (facing [.assertReset, .command (plain .xnext), .releaseReset]).inbox =
      .assertReset :: ([plain .xnext].map .command ++ .releaseReset :: []) := rfl

theorem witness_InterruptedCommandLeavesNothing :
    (facing [.assertResetDuring longest, .releaseReset]).inbox = .assertResetDuring longest :: .releaseReset :: [] := rfl

theorem step_facing (c : Command) : step (facing [.command c]) = runCommand c State.reset := rfl

/-- Both sides of the equivalence: 65536 bytes are refused, 65535 are not; and none is refused while in reset. -/
theorem witness_StepStopsExactlyOnTooLongDin :
    step (facing [.command { longest with din := 0 :: longest.din }]) = .refused .dinTooLong ∧
    (∃ t, step (facing [.command longest]) = .next t) ∧
    (∃ t, step { facing [.command { longest with din := 0 :: longest.din }] with inReset := true } = .next t) := by
  refine ⟨?_, ?_, ⟨_, rfl⟩⟩
  · have h : (0 :: longest.din).length > Config.dinMax := by
      rw [List.length_cons, longest_length]; decide
    rw [step_facing]
    exact if_pos h
  · obtain ⟨t, -, ht, -⟩ := runCommand_of_legal (c := longest) (i := .decode .p0) (le_of_eq longest_length)
      (by decide) State.reset
    exact ⟨_, (step_facing longest).trans ht⟩

theorem witness_RunAnswersEveryCommandInOrder :
    (∀ c ∈ [plain .nop, longest], c.din.length ≤ 65535) ∧ (facing [.command (plain .nop), .command longest]).inReset = false ∧
    (facing [.command (plain .nop), .command longest]).inbox = [plain .nop, longest].map .command :=
  ⟨List.forall_mem_cons.2 ⟨by decide, List.forall_mem_singleton.2 (le_of_eq longest_length)⟩, rfl, rfl⟩

/-- Two states that differ in what the host did and will do, and in nothing else. -/
theorem witness_NothingElsePersists :
    (facing [.assertReset]).toBlock = (after State.reset .nop).toBlock ∧
    (facing [.assertReset]).arg = (after State.reset .nop).arg ∧
    (facing [.assertReset]).din = (after State.reset .nop).din ∧ facing [.assertReset] ≠ after State.reset .nop := by
  decide

theorem witness_UnreadOperandsAreIgnored :
    (Instr.encode .p0).readsArg = false ∧ (Instr.encode .p0).readsDin = false ∧
    (Instr.setPort .p0).readsDin = false ∧ (Instr.decode .p1).readsArg = false := by decide

/-- Every status but ILLEGAL is answered by some legal command. -/
theorem witness_StatusesProducedAsListed :
    (answer State.reset .nop).map Prod.fst = some .ok ∧ (answer State.reset (.decode .p1)).map Prod.fst = some .empty ∧
    (answer configured (.rx .p1 true) 0 [0]).map Prod.fst = some .discard ∧
    (answer configured (.rx .p1 false)).map Prod.fst = some .nothing ∧
    (answer State.reset .xnext).map Prod.fst = some .scanEnd := by decide

/-- The three clauses, just below, at and just above the two bounds of 8 bits. -/
theorem witness_ClampSaturates : ((-1 : Int) < 0 ∧ (2 ^ 8 - 1 : Int) < 256) ∧
    ((0 : Int) ≤ 0 ∧ (0 : Int) ≤ 2 ^ 8 - 1) ∧ ((0 : Int) ≤ 255 ∧ (255 : Int) ≤ 2 ^ 8 - 1) := by decide

theorem test_clamp_bounds : clamp8 (-1) = 0 ∧ clamp8 0 = 0 ∧ clamp8 255 = 255 ∧ clamp8 256 = 255 := by decide

/-- The first byte present, the last byte present and the first byte missing. -/
theorem witness_FitPadsOrTruncatesToEight : 0 < 8 ∧ 7 < 8 ∧ (0 : Nat) < [1#8].length ∧ ¬(1 : Nat) < [1#8].length := by decide

/-- 40_codec.md R80: leading spaces are kept, and k = 8 meets the clause at every address. -/
theorem witness_TrimmedLengthIsLeast :
    trimlen (fit8 [0x20, 0x20, 0x58]) = 3 ∧ (∀ x ∈ (fit8 [0x20, 0x20, 0x58]).bytes.drop 3, x = 0x20#8) ∧
    (∀ x ∈ Addr.blank.bytes.drop 0, x = 0x20#8) ∧ (∀ x ∈ (fit8 node1).bytes.drop 8, x = 0x20#8) := by decide

theorem witness_FrameLayout : emptyPkt.wf ∧ (zeros 255).wf ∧ (zeros 256).wf ∧ (zeros 1024).wf :=
  ⟨zeros_wf (n := 0) (by omega), zeros_wf (by omega), zeros_wf (by omega), zeros_wf (by omega)⟩

/-- A header alone (D-4), and the longest frame (D-8). -/
theorem witness_ParseReadsWholeFrame :
    (20 ≤ (framed 0 0 0).length ∧ 256 * ((framed 0 0 0).getD 18 0).toNat + ((framed 0 0 0).getD 19 0).toNat ≤ 1024 ∧
      20 + (256 * ((framed 0 0 0).getD 18 0).toNat + ((framed 0 0 0).getD 19 0).toNat) ≤ (framed 0 0 0).length) ∧
    (20 ≤ (framed 4 0 1024).length ∧
      256 * ((framed 4 0 1024).getD 18 0).toNat + ((framed 4 0 1024).getD 19 0).toNat ≤ 1024 ∧
      20 + (256 * ((framed 4 0 1024).getD 18 0).toNat + ((framed 4 0 1024).getD 19 0).toNat) ≤ (framed 4 0 1024).length) := by
  simp only [framed_length, framed_declares]
  decide

/-- The three cases of 40_codec.md R83 at their bounds: 19 bytes; length 1025 (D-7); one byte too few (D-9). -/
theorem witness_ParseFailureIsClosedList :
    (List.replicate 19 0#8).length < 20 ∧
    1024 < 256 * ((framed 4 1 1025).getD 18 0).toNat + ((framed 4 1 1025).getD 19 0).toNat ∧
    (framed 4 0 1023).length < 20 + (256 * ((framed 4 0 1023).getD 18 0).toNat + ((framed 4 0 1023).getD 19 0).toNat) := by
  simp only [framed_length, framed_declares]
  decide

theorem witness_ParseOfLongPrefix :
    1044 < (framed 4 0 1025).length ∧ 1044 ≤ 1044 ∧ 1044 ≤ (framed 4 0 1025).length ∧ 1045 ≤ (framed 4 0 1025).length := by
  simp only [framed_length]
  decide

theorem witness_ParseOfFrameIsPacket : emptyPkt.wf ∧ (zeros 1024).wf :=
  ⟨zeros_wf (n := 0) (by omega), zeros_wf (by omega)⟩

theorem witness_ConfigureInAnyOrder :
    longest.din.length ≤ 65535 ∧ (-2 ^ 31 : Int) ≤ -2 ^ 31 ∧ (2 ^ 31 - 1 : Int) < 2 ^ 31 ∧
    (configure node1 5 true).reverse.Perm (configure node1 5 true) :=
  ⟨le_of_eq longest_length, by decide, by decide, List.reverse_perm _⟩

/-- The words of opcode 0 next to NOP's and the last. -/
theorem witness_NopOnlyAnswers : (0x0001 : CmdWord).toNat < 0x0400 ∧ (0x0001 : CmdWord) ≠ 0x0000 ∧
    (0x03FF : CmdWord).toNat < 0x0400 ∧ (0x03FF : CmdWord) ≠ 0x0000 := by decide

theorem witness_FlagIndependence : (7 : BitVec 3) ≠ 0 ∧ (0 : BitVec 3) ≠ 1 := by decide

theorem witness_EncodeThenDecodeCopies :
    (({ State.reset with p0 := zeros 1024 } : State).preg .p0).wf ∧ longest.din.length ≤ 65535 :=
  ⟨zeros_wf (by omega), le_of_eq longest_length⟩

/-- Filtered: an empty, a misaddressed and a malformed reception are not delivered, one for NODE1, 5 is; unfiltered, a
malformed one is. -/
theorem witness_ReceiveLoopDeliversFirst :
    (∀ x ∈ [[], frameNode2, [1]], ¬configured.toBlock.delivers true x) ∧
    configured.toBlock.delivers true (List.replicate 8 0 ++ node1 ++ [5, 0, 0, 0]) ∧
    configured.toBlock.delivers false [1] := by
  unfold Block.delivers; decide

theorem scanning_inv : (scanning (frameA ++ frameB) 21).Inv :=
  ⟨⟨by unfold Packet.wf; decide, by unfold Packet.wf; decide, by decide, by decide⟩, by decide⟩

theorem witness_XnextYieldsSubFrame : ∃ t x, (scanning (frameA ++ frameB) 21).Inv ∧
    exec .xnext (scanning (frameA ++ frameB) 21) = .next t ∧
    t.responses = (scanning (frameA ++ frameB) 21).responses ++ [x] ∧ x.status = .ok :=
  ⟨_, _, scanning_inv, rfl, rfl, rfl⟩

/-- A listed command; RX into `P[0]` that delivers the sentinel; RX into `P[0]` that discards; a command not listed; XNEXT
with a sub-packet. -/
theorem witness_ScanEndedExactlyByListed :
    (Instr.setFlag .p0 true 0).endsScan = true ∧ (Instr.setFlag .p1 true 0).endsScan = false ∧
    (∃ t x, exec (.rx .p0 false) { scanning frameA 0 with din := [0] } = .next t ∧ t.responses = [] ++ [x] ∧
      x.status = .empty) ∧
    (∃ t x, exec (.rx .p0 true) { configured with din := [0] } = .next t ∧ t.responses = [] ++ [x] ∧
      x.status = .discard) ∧
    (∃ t x, exec .xnext (scanning frameA 0) = .next t ∧ t.responses = [] ++ [x] ∧ x.status = .ok) :=
  ⟨rfl, rfl, ⟨_, _, rfl, rfl, rfl⟩, ⟨_, _, rfl, rfl, rfl⟩, ⟨_, _, rfl, rfl, rfl⟩⟩

theorem witness_ScanYieldsExtract : ({ State.reset with p0 := zeros 1024 } : State).p0.wf := zeros_wf (by omega)

theorem witness_ExtractBounds : (zeros 1024).pay.length ≤ 1024 ∧ (zeros 1024).pay.length / 20 ≤ 51 := by
  simp only [zeros, List.length_replicate]; decide

/-- Two whole frames and a third cut after 19 bytes, one short of its header; and cut after 20 of its 21. -/
theorem witness_GroupRoundTrip :
    let s := scanning (frameA ++ frameA ++ frameA.take 19) 0
    let u := scanning (frameA ++ frameA ++ frameA.take 20) 0
    let a := parse frameA
    s.cfgFmt = .structured ∧ s.p0.isGroup = true ∧ (∀ b ∈ [a, a], b.valid = true ∧ b.wf) ∧ a.wf ∧
    19 < (frame a).length ∧ 20 < (frame a).length ∧ s.p0.pay.length ≤ 1024 ∧ u.p0.pay.length ≤ 1024 ∧
    s.p0.pay = [a, a].flatMap frame ++ (frame a).take 19 ∧ u.p0.pay = [a, a].flatMap frame ++ (frame a).take 20 := by
  unfold Packet.wf
  decide

/-- Different packets in both registers of the two states, as in program P5; and both clauses on `P[1]`: the first XNEXT
after XBEGIN answers OK on a group of two frames, END on a group of 19 bytes. -/
theorem witness_RebuiltScanReplays :
    let s := scanning (frameA ++ frameB) 21
    let s' := after (alice 0) (.decode .p1) 0 frameA
    let u := scanning (frameB.take 19) 0
    s.p0.wf ∧ u.p0.wf ∧ s'.cfgFmt = s.cfgFmt ∧ s'.cfgFmt = u.cfgFmt ∧ s'.p0 ≠ s.p0 ∧ s'.p1 ≠ s.p1 ∧
    answer (after s .xbegin) .xnext = some (.ok, 0, frameA) ∧ answer (after u .xbegin) .xnext = some (.scanEnd, 0, []) := by
  unfold Packet.wf
  decide

theorem witness_RepeatingACommand : Instr.xstat.readOnly = true ∧
    (Instr.setFlag .p0 true 7).readOnly = false ∧ Instr.setFlag .p0 true 7 ≠ .xbegin ∧ Instr.setFlag .p0 true 7 ≠ .xnext ∧
    ∀ r v, Instr.setFlag .p0 true 7 ≠ .rx r v :=
  ⟨rfl, rfl, by decide, by decide, fun _ _ => by simp⟩

/-- Two different states that answer every reading command alike. -/
theorem witness_StateIsFullyReadable :
    facing [.assertReset] ≠ State.reset ∧
    ∀ (i : Instr) (t t' : State) (x x' : Response), i.readOnly = true →
      exec i (facing [.assertReset]) = .next t → t.responses = (facing [.assertReset]).responses ++ [x] →
      exec i State.reset = .next t' → t'.responses = State.reset.responses ++ [x'] → x = x' := by
  refine ⟨by decide, ?_⟩
  intro i t t' x x' hi h hx h' hx'
  cases i <;> first
    | (simp only [Instr.readOnly, Bool.false_eq_true] at hi; done)
    | (cases h; cases h'; exact ((List.cons.inj hx).1.symm.trans (List.cons.inj hx').1))

theorem reset_inv : State.reset.Inv :=
  ⟨⟨by unfold Packet.wf; decide, by unfold Packet.wf; decide, by decide, by decide⟩, by decide⟩

theorem witness_StepKeepsInvariant : (scanning (frameA ++ frameB) 21).Inv ∧
    ∃ t, step ((scanning (frameA ++ frameB) 21).withCommand (plain .xnext)) = .next t ∧ t ≠ scanning (frameA ++ frameB) 21 :=
  ⟨scanning_inv, _, rfl, by decide⟩

end Sys2Proof.Tests
end

section
/-! SUPPORT. Proofs about the block's state as a whole: its values after reset, the invariant that every step keeps, and
that a command's outcome depends on the block's state and its operands alone (10_state.md). -/

namespace Sys2Proof.Machine

/-! ### The bounds of payloads -/

theorem emptyPkt_wf : emptyPkt.wf := Nat.zero_le _

/-- 41_packet.md R88: whatever stands beyond the payload bound is dropped. -/
theorem newPayload_length_le (din : Bytes) : (newPayload din).length ≤ Config.maxPayload := by
  simp only [newPayload, slice_length, Config.maxPayload_eq]
  omega

theorem makePayload_length_le (din : Bytes) : (makePayload din).length ≤ Config.maxPayload := by
  simp only [makePayload, slice_length, Config.maxPayload_eq]
  omega

theorem fitPayload_length_le (b : Bytes) : (fitPayload b).length ≤ Config.maxPayload := by
  simp only [fitPayload, slice_length, Config.maxPayload_eq]
  omega

theorem packetAt_wf {b : Bytes} (hb : b.length ≤ Config.maxPayload) (o l : Nat) : (packetAt b o l).wf := by
  simp only [Packet.wf, packetAt, slice_length]
  omega

/-- 20_memory.md R37: a frame is at most `MAX_FRAME` bytes. -/
theorem frame_length_le {q : Packet} (hq : q.wf) : (frame q).length ≤ Config.maxFrame := by
  rw [frame_length]
  exact Nat.add_le_add_left hq 20

theorem length_bytes_le_maxFrame (a : Addr) : a.bytes.length ≤ Config.maxFrame := by
  rw [Addr.length_bytes]
  decide

/-! ### What keeps the invariant -/

/-- An inactive scan leaves only the bounds to show. -/
theorem Block.inv_of_inactive {b : Block} (h0 : b.p0.wf) (h1 : b.p1.wf) (ho : b.scanOff.toNat ≤ Config.maxPayload)
    (ha : b.scanActive = false) : b.Inv :=
  ⟨h0, h1, ho, fun h => absurd (ha.symm.trans h) Bool.false_ne_true⟩

theorem Block.reset_inv : Block.reset.Inv :=
  Block.inv_of_inactive emptyPkt_wf emptyPkt_wf (Nat.zero_le _) rfl

namespace State.Inv

variable {s t : State}

/-- The invariant reads the block's state and the responses, not the channels, the reset input or the host's events. -/
theorem of_same (hs : s.Inv) (hb : t.toBlock = s.toBlock) (hr : t.responses = s.responses) : t.Inv :=
  ⟨hb ▸ hs.block, hr ▸ hs.douts⟩

/-- Reset loads a block of the invariant, whatever the block was. -/
theorem of_reset (hs : s.Inv) (hb : t.toBlock = Block.reset) (hr : t.responses = s.responses) : t.Inv :=
  ⟨hb ▸ Block.reset_inv, hr ▸ hs.douts⟩

theorem preg_wf (hs : s.Inv) (r : PReg) : (s.preg r).wf := by
  cases r with
  | p0 => exact hs.block.pay0
  | p1 => exact hs.block.pay1

theorem endScan (hs : s.Inv) : s.endScan.Inv :=
  ⟨Block.inv_of_inactive hs.block.pay0 hs.block.pay1 hs.block.off rfl, hs.douts⟩

/-- A write to `P[0]` ends the scan; a write to `P[1]` touches nothing that an active scan needs (43_group.md R106). -/
theorem writePreg (hs : s.Inv) (r : PReg) {q : Packet} (hq : q.wf) : (s.writePreg r q).Inv := by
  cases r with
  | p0 => exact ⟨Block.inv_of_inactive hq hs.block.pay1 hs.block.off rfl, hs.douts⟩
  | p1 => exact ⟨⟨hs.block.pay0, hq, hs.block.off, hs.block.active⟩, hs.douts⟩

theorem setCfgAddr (hs : s.Inv) (a : Addr) : { s with cfgAddr := a }.Inv :=
  ⟨⟨hs.block.pay0, hs.block.pay1, hs.block.off, hs.block.active⟩, hs.douts⟩

theorem setCfgPort (hs : s.Inv) (p : BitVec 8) : { s with cfgPort := p }.Inv :=
  ⟨⟨hs.block.pay0, hs.block.pay1, hs.block.off, hs.block.active⟩, hs.douts⟩

/-- The format may change because the scan ends with it (44_endpoint.md R117). -/
theorem setCfgFmt (hs : s.Inv) (f : Format) : { s.endScan with cfgFmt := f }.Inv :=
  ⟨Block.inv_of_inactive hs.block.pay0 hs.block.pay1 hs.block.off rfl, hs.douts⟩

/-- A scan starts at offset 0, in STRUCTURED format over a GROUP packet only (43_group.md R107). -/
theorem startScan (hs : s.Inv) :
    { s with scanOff := 0#11, scanActive := s.cfgFmt == Format.structured && s.p0.isGroup }.Inv := by
  refine ⟨⟨hs.block.pay0, hs.block.pay1, Nat.zero_le _, fun hstarts => ?_⟩, hs.douts⟩
  obtain ⟨hfmt, hgroup⟩ := Bool.and_eq_true_iff.1 hstarts
  exact ⟨eq_of_beq hfmt, hgroup, Nat.zero_le _⟩

/-- A whole sub-packet moves SCAN_OFF to its end, which is within the payload, so 11 bits hold it (43_group.md R108;
log 9). -/
theorem advanceScan (hs : s.Inv) {sl : Nat} (hactive : s.scanActive = true)
    (hsub : subLenAt s.p0.pay s.scanOff.toNat = some sl) :
    { s with p1 := packetAt s.p0.pay s.scanOff.toNat sl,
             scanOff := BitVec.ofNat 11 (s.scanOff.toNat + 20 + sl) }.Inv := by
  obtain ⟨hend, -⟩ := subLenAt_some.1 hsub
  obtain ⟨hfmt, hgroup, -⟩ := hs.block.active hactive
  have hpay : s.p0.pay.length ≤ 1024 := hs.block.pay0
  have hoff : (BitVec.ofNat 11 (s.scanOff.toNat + 20 + sl)).toNat = s.scanOff.toNat + 20 + sl := by
    rw [BitVec.toNat_ofNat]
    omega
  exact ⟨⟨hs.block.pay0, packetAt_wf hpay _ _, hoff.trans_le (hend.trans hpay),
    fun _ => ⟨hfmt, hgroup, hoff.trans_le hend⟩⟩, hs.douts⟩

/-- A response within the bound of `dout`, from a state of the invariant. -/
theorem of_respond (hs : s.Inv) {st : Status} {v : Nat} {d : Bytes} (hd : d.length ≤ Config.maxFrame)
    (h : respond s st v d = .next t) : t.Inv := by
  rw [respond_next h]
  refine ⟨hs.block, fun x hx => ?_⟩
  obtain hold | rfl := List.mem_append.1 hx |>.imp_right List.mem_singleton.1
  · exact hs.douts x hold
  · exact hd

theorem of_respond_nil (hs : s.Inv) {st : Status} {v : Nat} (h : respond s st v [] = .next t) : t.Inv :=
  hs.of_respond (Nat.zero_le _) h

/-- A command that writes a packet register and answers OK. -/
theorem of_respondOk_writePreg (hs : s.Inv) {r : PReg} {q : Packet} (h : respondOk (s.writePreg r q) = .next t)
    (hq : q.wf) : t.Inv :=
  (hs.writePreg r hq).of_respond_nil h

end State.Inv

/-! ### Every step keeps the invariant -/

section
variable {s t : State}

theorem execDecode_keeps_inv {r : PReg} (hs : s.Inv) (h : execDecode r s = .next t) : t.Inv := by
  have hw : (s.writePreg r (parse s.din)).Inv := hs.writePreg r (parse_wf _)
  simp only [execDecode] at h
  split at h
  · exact hw.of_respond_nil h
  · exact hw.of_respond_nil h

theorem execRx_keeps_inv {r : PReg} {v : Bool} (hs : s.Inv) (h : execRx r v s = .next t) : t.Inv := by
  have hw : (s.writePreg r (parse s.din)).Inv := hs.writePreg r (parse_wf _)
  simp only [execRx] at h
  split at h
  · exact hs.of_respond_nil h
  · split at h
    · exact hs.of_respond_nil h
    · split at h
      · exact hw.of_respond_nil h
      · exact hw.of_respond_nil h

theorem execXnext_keeps_inv (hs : s.Inv) (h : execXnext s = .next t) : t.Inv := by
  simp only [execXnext] at h
  split at h
  · next hactive =>
    split at h
    · exact hs.endScan.of_respond_nil h
    · next sl hsub =>
      have hpay : s.p0.pay.length ≤ 1024 := hs.block.pay0
      refine (hs.advanceScan hactive hsub).of_respond ?_ h
      rw [slice_length, Config.maxFrame_eq]
      omega
  · exact hs.of_respond_nil h

/-- Every command keeps the invariant, whatever stands on its channels. -/
theorem exec_keeps_inv {i : Instr} (hs : s.Inv) (h : exec i s = .next t) : t.Inv := by
  cases i with
  | nop | cfgGetPort | cfgGetFmt | xstat => exact hs.of_respond_nil h
  | getPort r | getFlags r | getLen r | getFlag r idx | getValid r | matchFilter r => exact hs.of_respond_nil h
  | cfgGetAddr | getSrc r | getDst r => exact hs.of_respond (length_bytes_le_maxFrame _) h
  | getPayload r => exact hs.of_respond ((hs.preg_wf r).trans (by decide)) h
  | encode r => exact hs.of_respond (frame_length_le (hs.preg_wf r)) h
  | cfgSetAddr => exact (hs.setCfgAddr _).of_respond_nil h
  | cfgSetPort => exact (hs.setCfgPort _).of_respond_nil h
  | cfgSetFmt v => exact (hs.setCfgFmt _).of_respond_nil h
  | new r => exact hs.of_respondOk_writePreg h (newPayload_length_le s.din)
  | make r => exact hs.of_respondOk_writePreg h (makePayload_length_le s.din)
  | setPayload r => exact hs.of_respondOk_writePreg h (fitPayload_length_le s.din)
  | setSrc r | setDst r | setPort r | setFlags r | setFlag r v idx =>
    exact hs.of_respondOk_writePreg h (hs.preg_wf r)
  | decode r => exact execDecode_keeps_inv hs h
  | rx r v => exact execRx_keeps_inv hs h
  | xbegin => exact hs.startScan.of_respond_nil h
  | xnext => exact execXnext_keeps_inv hs h

theorem runCommand_keeps_inv {c : Command} (hs : s.Inv) (h : runCommand c s = .next t) : t.Inv := by
  have ha : (s.accept c).Inv := hs.of_same rfl rfl
  by_cases hd : c.din.length ≤ 65535
  · cases hw : Sys2Proof.decode c.word with
    | legal i =>
      obtain ⟨u, hu, hrun, -⟩ := runCommand_of_legal hd hw s
      obtain rfl : u.retire = t := by simpa [hrun] using h
      exact (exec_keeps_inv ha hu).of_same rfl rfl
    | illegal why =>
      rw [runCommand_of_illegal hd hw] at h
      obtain rfl := Host.Outcome.next.inj h
      exact (ha.of_respond_nil (st := .illegal) (v := 0) rfl).of_same rfl rfl
  · have hlong : c.din.length > Config.dinMax := Nat.not_le.1 hd
    simp [runCommand, hlong] at h

theorem hostEvent_keeps_inv {e : HostEvent} (hs : s.Inv) (h : hostEvent e s = .next t) : t.Inv := by
  cases e with
  | command c =>
    simp only [hostEvent] at h
    split at h
    · exact Host.Outcome.next.inj h ▸ hs
    · exact runCommand_keeps_inv hs h
  | assertReset | assertResetDuring c =>
    obtain rfl := Host.Outcome.next.inj h
    exact hs.of_reset rfl rfl
  | releaseReset =>
    simp only [hostEvent] at h
    split at h
    · obtain rfl := Host.Outcome.next.inj h
      exact hs.of_reset rfl rfl
    · exact Host.Outcome.next.inj h ▸ hs

theorem step_keeps_inv (hs : s.Inv) (h : step s = .next t) : t.Inv := by
  cases hbox : s.inbox with
  | nil =>
    rw [step_of_inbox_nil hbox] at h
    exact Host.Outcome.next.inj h ▸ hs
  | cons e rest =>
    rw [step_of_inbox_cons hbox] at h
    have hrest : { s with inbox := rest }.Inv := hs.of_same rfl rfl
    exact hostEvent_keeps_inv hrest h

end

/-! ### What a command's outcome depends on -/

/-- Two states that a command cannot tell apart: the same block and the same operands on the channels. -/
structure SameInputs (s s' : State) : Prop where
  block : s.toBlock = s'.toBlock
  arg : s.arg = s'.arg
  din : s.din = s'.din

/-- The outcomes `o` from `s` and `o'` from `s'` are next states with the same block, after the same one response. -/
def SameEffect (s s' : State) (o o' : Result) : Prop :=
  ∃ t t' x, o = .next t ∧ o' = .next t' ∧ t.toBlock = t'.toBlock ∧
    t.responses = s.responses ++ [x] ∧ t'.responses = s'.responses ++ [x]

section
variable {s s' u u' : State}

theorem respond_sameEffect {st : Status} {v : Nat} {d : Bytes} (hb : u.toBlock = u'.toBlock)
    (hr : u.responses = s.responses) (hr' : u'.responses = s'.responses) :
    SameEffect s s' (respond u st v d) (respond u' st v d) :=
  ⟨_, _, _, rfl, rfl, hb, congrArg (· ++ _) hr, congrArg (· ++ _) hr'⟩

theorem State.preg_congr (h : s.toBlock = s'.toBlock) (r : PReg) : s.preg r = s'.preg r := by
  cases r with
  | p0 => exact congrArg Block.p0 h
  | p1 => exact congrArg Block.p1 h

theorem State.writePreg_toBlock_congr (h : s.toBlock = s'.toBlock) (r : PReg) (q : Packet) :
    (s.writePreg r q).toBlock = (s'.writePreg r q).toBlock := by
  cases r <;> simp only [writePreg_p0, writePreg_p1, h]

namespace SameInputs

/-- A response that leaves the block as it is. -/
theorem sameEffect_respond (h : SameInputs s s') {st : Status} {v : Nat} {d : Bytes} :
    SameEffect s s' (respond s st v d) (respond s' st v d) :=
  respond_sameEffect h.block rfl rfl

/-- The same packet written to the same register. -/
theorem sameEffect_writePreg (h : SameInputs s s') {r : PReg} {q : Packet} {st : Status} {v : Nat} {d : Bytes} :
    SameEffect s s' (respond (s.writePreg r q) st v d) (respond (s'.writePreg r q) st v d) :=
  respond_sameEffect (State.writePreg_toBlock_congr h.block r q) (by simp) (by simp)

theorem sameEffect_execDecode (h : SameInputs s s') (r : PReg) : SameEffect s s' (execDecode r s) (execDecode r s') := by
  simp only [execDecode, h.din]
  split
  · exact h.sameEffect_writePreg
  · exact h.sameEffect_writePreg

theorem sameEffect_execRx (h : SameInputs s s') (r : PReg) (v : Bool) : SameEffect s s' (execRx r v s) (execRx r v s') := by
  simp only [execRx, h.din, h.block]
  split
  · exact h.sameEffect_respond
  · split
    · exact h.sameEffect_respond
    · split
      · exact h.sameEffect_writePreg
      · exact h.sameEffect_writePreg

theorem sameEffect_execXnext (h : SameInputs s s') : SameEffect s s' (execXnext s) (execXnext s') := by
  simp only [execXnext, h.block]
  split
  · split
    · exact respond_sameEffect (by simp only [State.endScan, h.block]) rfl rfl
    · exact respond_sameEffect rfl rfl rfl
  · exact h.sameEffect_respond

/-- Every command reads the block's state and its operands, and nothing else (10_state.md R17, R32). -/
theorem sameEffect_exec (h : SameInputs s s') (i : Instr) : SameEffect s s' (exec i s) (exec i s') := by
  have hpreg := State.preg_congr h.block
  cases i with
  | nop => exact h.sameEffect_respond
  | cfgGetAddr | cfgGetPort | cfgGetFmt | xstat =>
    simp only [exec, execCfgGetAddr, execCfgGetPort, execCfgGetFmt, execXstat, h.block]
    exact h.sameEffect_respond
  | getSrc r | getDst r | getPort r | getFlags r | getLen r | getPayload r | getFlag r idx | getValid r =>
    simp only [exec, execGetSrc, execGetDst, execGetPort, execGetFlags, execGetLen, execGetPayload, execGetFlag,
      execGetValid, hpreg]
    exact h.sameEffect_respond
  | encode r | matchFilter r =>
    simp only [exec, execEncode, execMatchFilter, h.block, hpreg]
    exact h.sameEffect_respond
  | new r | make r =>
    simp only [exec, execNew, execMake, respondOk, State.intArg, h.block, h.arg, h.din]
    exact h.sameEffect_writePreg
  | setSrc r | setDst r | setPort r | setFlags r | setPayload r | setFlag r v idx =>
    simp only [exec, execSetSrc, execSetDst, execSetPort, execSetFlags, execSetPayload, execSetFlag, respondOk,
      State.intArg, h.arg, h.din, hpreg]
    exact h.sameEffect_writePreg
  | cfgSetAddr | cfgSetPort | cfgSetFmt v =>
    simp only [exec, execCfgSetAddr, execCfgSetPort, execCfgSetFmt, State.endScan, State.intArg, h.block, h.arg,
      h.din]
    exact respond_sameEffect rfl rfl rfl
  | xbegin =>
    simp only [exec, execXbegin, h.block]
    exact respond_sameEffect rfl rfl rfl
  | decode r => exact h.sameEffect_execDecode r
  | rx r v => exact h.sameEffect_execRx r v
  | xnext => exact h.sameEffect_execXnext

end SameInputs
end

/-! ### The statements -/

/-- Settles O15, from the relational lemma over every command. -/
theorem nothingElsePersists : Obligations.NothingElsePersists := by
  unfold Obligations.NothingElsePersists
  intro i s s' hblock harg hdin
  exact SameInputs.sameEffect_exec ⟨hblock, harg, hdin⟩ i

/-- Settles O59, by the cases of the host's next event. -/
theorem stepKeepsInvariant : Obligations.StepKeepsInvariant := by
  unfold Obligations.StepKeepsInvariant
  intro s t hs h
  exact step_keeps_inv hs h

/-- Settles O10: both packet registers hold the sentinel, and the other fields are those of `Block.reset`. -/
theorem resetValues : Obligations.ResetValues := by
  unfold Obligations.ResetValues
  exact ⟨rfl, rfl, rfl, rfl, rfl, rfl, rfl, rfl, rfl, rfl, rfl, rfl, rfl⟩

/-- Settles O58: the reset block meets the invariant, and no response has been given. -/
theorem invariantAtReset : Obligations.InvariantAtReset := by
  unfold Obligations.InvariantAtReset
  exact ⟨Block.reset_inv, List.forall_mem_nil _⟩

end Sys2Proof.Machine
end

section
/-! SUPPORT. Proofs about the storage the block does and does not have (20_memory.md): the layout of a frame, commands in
a row, and commands repeated. -/

namespace Sys2Proof.Machine

/-! ### A command's outcome, whole -/

/-- `s` with the block `b` and one more response: what a command leaves. -/
def State.advanced (s : State) (b : Block) (x : Response) : State :=
  { s with toBlock := b, responses := s.responses ++ [x] }

@[simp] theorem State.advanced_toBlock (s : State) (b : Block) (x : Response) : (s.advanced b x).toBlock = b := rfl
@[simp] theorem State.advanced_arg (s : State) (b : Block) (x : Response) : (s.advanced b x).arg = s.arg := rfl
@[simp] theorem State.advanced_din (s : State) (b : Block) (x : Response) : (s.advanced b x).din = s.din := rfl
@[simp] theorem State.advanced_inReset (s : State) (b : Block) (x : Response) :
    (s.advanced b x).inReset = s.inReset := rfl
@[simp] theorem State.advanced_inbox (s : State) (b : Block) (x : Response) : (s.advanced b x).inbox = s.inbox := rfl
@[simp] theorem State.advanced_responses (s : State) (b : Block) (x : Response) :
    (s.advanced b x).responses = s.responses ++ [x] := rfl

theorem Answers.eq_advanced {s t : State} {x : Response} (h : Answers s t) (hx : t.responses = s.responses ++ [x]) :
    t = s.advanced t.toBlock x := by
  obtain ⟨harg, hdin, hreset, hinbox, -⟩ := h
  cases t
  cases harg
  cases hdin
  cases hreset
  cases hinbox
  cases hx
  rfl

theorem SameInputs.refl (s : State) : SameInputs s s := ⟨rfl, rfl, rfl⟩

/-- One block and one response are a command's outcome from every state that it cannot tell from `s`. -/
theorem exec_eq_advanced (i : Instr) (s : State) :
    ∃ b x, ∀ s', SameInputs s s' → exec i s' = .next (s'.advanced b x) := by
  obtain ⟨t, ht, ha⟩ := exec_answers i s
  obtain ⟨x, hx⟩ := ha.one
  refine ⟨t.toBlock, x, fun s' h => ?_⟩
  obtain ⟨u, t', y, hu, ht', hb, hy, hy'⟩ := h.sameEffect_exec i
  obtain rfl := Host.Outcome.next.inj (ht.symm.trans hu)
  obtain rfl : x = y := by simpa using hx.symm.trans hy
  obtain ⟨u', hu', ha'⟩ := exec_answers i s'
  obtain rfl := Host.Outcome.next.inj (ht'.symm.trans hu')
  rw [ht', hb, ← ha'.eq_advanced hy']

/-! ### Commands in a row -/

/-- A command at the port reads the block and its own operands, so one block and one response are its outcome from every
state of the same block (10_state.md R17, R32). -/
theorem runCommand_eq_advanced {c : Command} (hd : c.din.length ≤ 65535) (s : State) :
    ∃ b x, ∀ s', s.toBlock = s'.toBlock → runCommand c s' = .next (s'.advanced b x).retire := by
  cases hw : Sys2Proof.decode c.word with
  | legal i =>
    obtain ⟨b, x, hexec⟩ := exec_eq_advanced i (s.accept c)
    refine ⟨b, x, fun s' hb => ?_⟩
    obtain ⟨t, ht, hrun, -⟩ := runCommand_of_legal hd hw s'
    have hx : exec i (s'.accept c) = .next ((s'.accept c).advanced b x) := hexec _ ⟨hb, rfl, rfl⟩
    obtain rfl := Host.Outcome.next.inj (hx.symm.trans ht)
    exact hrun
  | illegal why =>
    refine ⟨s.toBlock, { status := .illegal, rval := zext32 0, dout := [] }, fun s' hb => ?_⟩
    rw [runCommand_of_illegal hd hw, hb]
    rfl

theorem runCommands_cons_of_next {c : Command} {cs : List Command} {s t : State} (h : runCommand c s = .next t) :
    runCommands (c :: cs) s = runCommands cs t := by
  simp only [runCommands, h]

/-- With reset released, a command at the head of the host's list is run on the state without it. -/
theorem step_of_inbox_command {s : State} {c : Command} {rest : List HostEvent} (hr : s.inReset = false)
    (hbox : s.inbox = .command c :: rest) : step s = runCommand c { s with inbox := rest } := by
  rw [step_of_inbox_cons hbox, hostEvent, hr]
  rfl

/-- The commands at the head of the host's list run one after the other, each on the state the one before it left, and
what stands behind them stays pending (20_memory.md R52). -/
theorem run_of_inbox_commands (cs : List Command) (rest : List HostEvent) (s : State)
    (hd : ∀ c ∈ cs, c.din.length ≤ 65535) (hr : s.inReset = false) (hbox : s.inbox = cs.map .command ++ rest) :
    ∃ t, Host.Core.run core cs.length s = .next t ∧ t.inbox = rest ∧
      t.responses.length = s.responses.length + cs.length ∧ runCommands cs { s with inbox := rest } = .next t := by
  induction cs generalizing s with
  | nil =>
    obtain rfl : s.inbox = rest := hbox
    exact ⟨s, rfl, rfl, rfl, rfl⟩
  | cons c cs ih =>
    obtain ⟨hc, hcs⟩ := List.forall_mem_cons.1 hd
    obtain ⟨b, x, hcommand⟩ := runCommand_eq_advanced hc s
    have hstep := (step_of_inbox_command hr hbox).trans (hcommand { s with inbox := cs.map .command ++ rest } rfl)
    have hfirst := hcommand { s with inbox := rest } rfl
    obtain ⟨t, hrun, hinbox, hlen, hcmds⟩ :=
      ih (State.advanced { s with inbox := cs.map .command ++ rest } b x).retire hcs hr rfl
    refine ⟨t, (core_run_succ_of_next hstep).trans hrun, hinbox, ?_, (runCommands_cons_of_next hfirst).trans hcmds⟩
    simp only [State.retire_responses, State.advanced_responses, List.length_append, List.length_singleton] at hlen
    simp only [List.length_cons]
    omega

/-! ### The layout of a frame -/

theorem frame_take_src (q : Packet) : (frame q).take 8 = q.src.bytes := by
  rw [frame_eq]
  exact List.take_left' q.src.size

theorem frame_drop_src (q : Packet) : (frame q).drop 8 = q.dst.bytes ++ (q.port :: q.flags ::
    (BitVec.ofNat 16 q.len).extractLsb' 8 8 :: (BitVec.ofNat 16 q.len).extractLsb' 0 8 :: q.pay) := by
  rw [frame_eq]
  exact List.drop_left' q.src.size

/-- What follows the two addresses: four bytes and the payload. -/
theorem frame_drop_addresses (q : Packet) : (frame q).drop 16 = q.port :: q.flags ::
    (BitVec.ofNat 16 q.len).extractLsb' 8 8 :: (BitVec.ofNat 16 q.len).extractLsb' 0 8 :: q.pay := by
  rw [show 16 = 8 + 8 from rfl, ← List.drop_drop, frame_drop_src]
  exact List.drop_left' q.dst.size

theorem frame_getElem?_add (q : Packet) (k : Nat) : (frame q)[16 + k]? = (q.port :: q.flags ::
    (BitVec.ofNat 16 q.len).extractLsb' 8 8 :: (BitVec.ofNat 16 q.len).extractLsb' 0 8 :: q.pay)[k]? := by
  rw [← List.getElem?_drop, frame_drop_addresses]

theorem frame_drop_header (q : Packet) : (frame q).drop 20 = q.pay := by
  rw [show 20 = 16 + 4 from rfl, ← List.drop_drop, frame_drop_addresses]
  rfl

/-- The most significant byte of a length (20_memory.md R42). -/
theorem lenHigh_toNat {n : Nat} (h : n < 65536) : ((BitVec.ofNat 16 n).extractLsb' 8 8).toNat = n / 256 := by
  simp only [BitVec.extractLsb'_toNat, BitVec.toNat_ofNat, Nat.shiftRight_eq_div_pow]
  omega

theorem lenLow_toNat (n : Nat) : ((BitVec.ofNat 16 n).extractLsb' 0 8).toNat = n % 256 := by
  simp only [BitVec.extractLsb'_toNat, BitVec.toNat_ofNat, Nat.shiftRight_eq_div_pow]
  omega

/-! ### A repeated command -/

/-- The side-effect-free commands write no state of the block (20_memory.md R49). -/
theorem exec_readOnly_toBlock {i : Instr} {s t : State} (hi : i.readOnly = true) (h : exec i s = .next t) :
    t.toBlock = s.toBlock := by
  cases i with
  | nop | cfgGetAddr | cfgGetPort | cfgGetFmt | xstat => rw [respond_next h]
  | getSrc r | getDst r | getPort r | getFlags r | getLen r | getPayload r | getFlag r idx | getValid r =>
    rw [respond_next h]
  | encode r | matchFilter r => rw [respond_next h]
  | cfgSetAddr | cfgSetPort | cfgSetFmt v => cases hi
  | new r | make r | setSrc r | setDst r | setPort r | setFlags r | setPayload r | setFlag r v idx => cases hi
  | decode r | rx r v | xbegin | xnext => cases hi

/-- A side-effect-free command gives the same response whatever was answered before it, and leaves nothing else. -/
theorem exec_readOnly {i : Instr} (hi : i.readOnly = true) (s : State) :
    ∃ x, ∀ s', SameInputs s s' → exec i s' = .next (s'.advanced s'.toBlock x) := by
  obtain ⟨b, x, hexec⟩ := exec_eq_advanced i s
  obtain rfl : b = s.toBlock := exec_readOnly_toBlock hi (hexec s (.refl s))
  exact ⟨x, fun s' h => h.block ▸ hexec s' h⟩

/-- The command `i` at `s`, executed twice, leaves the block that it left the first time. -/
def LeavesSameWhenRepeated (i : Instr) (s : State) : Prop :=
  ∃ t u, exec i s = .next t ∧ exec i t = .next u ∧ u.toBlock = t.toBlock

/-- The command `i` writes the packet `f s` to `P[r]`, and then responds. -/
def WritesPreg (i : Instr) (r : PReg) (f : State → Packet) : Prop :=
  ∀ s, ∃ st v d, exec i s = respond (s.writePreg r (f s)) st v d

@[simp] theorem State.writePreg_writePreg (s : State) (r : PReg) (q q' : Packet) :
    (s.writePreg r q).writePreg r q' = s.writePreg r q' := by
  cases r <;> rfl

/-- A write repeats when the register's new value does not change by its being written. -/
theorem WritesPreg.leavesSameWhenRepeated {i : Instr} {r : PReg} {f : State → Packet} (hw : WritesPreg i r f)
    {s : State} (hf : f (s.writePreg r (f s)) = f s) : LeavesSameWhenRepeated i s := by
  obtain ⟨st, v, d, h⟩ := hw s
  obtain ⟨st', v', d', h'⟩ := hw (s.writePreg r (f s))
  rw [hf, State.writePreg_writePreg] at h'
  obtain ⟨b, x, hexec⟩ := exec_eq_advanced i (s.writePreg r (f s))
  have hb : b = (s.writePreg r (f s)).toBlock :=
    congrArg State.toBlock (respond_next (h'.symm.trans (hexec _ (.refl _))))
  exact ⟨_, _, h, hexec _ ⟨rfl, rfl, rfl⟩, hb⟩

theorem writesPreg_decode (r : PReg) : WritesPreg (.decode r) r fun s => parse s.din := by
  intro s
  simp only [exec, execDecode]
  split <;> exact ⟨_, _, _, rfl⟩

/-- A flag written twice is a flag written once (42_flags.md R102). -/
@[simp] theorem setFlagBit_setFlagBit (f : BitVec 8) (idx : BitVec 3) (v : Bool) :
    setFlagBit (setFlagBit f idx v) idx v = setFlagBit f idx v := by
  refine BitVec.eq_of_getLsbD_eq fun j hj => ?_
  rw [setFlagBit_getLsbD _ _ _ hj, setFlagBit_getLsbD _ _ _ hj]
  split <;> rfl

@[simp] theorem State.writePreg_intArg (s : State) (r : PReg) (q : Packet) :
    (s.writePreg r q).intArg = s.intArg := by
  simp only [intArg, writePreg_arg]

/-- Every command that writes state repeats, but for the three that go on from where the state is or take a reception
(20_memory.md R49). What it writes is computed from the operands, the configuration and, for a mutator, the register's own
fields, and the write leaves each of these as the command reads it. -/
theorem exec_write_leavesSameWhenRepeated {i : Instr} (s : State) (hi : i.readOnly = false) (hb : i ≠ .xbegin)
    (hn : i ≠ .xnext) (hx : ∀ r v, i ≠ .rx r v) : LeavesSameWhenRepeated i s := by
  cases i with
  | cfgSetAddr | cfgSetPort | cfgSetFmt v => exact ⟨_, _, rfl, rfl, rfl⟩
  | new r | make r | setSrc r | setDst r | setPort r | setFlags r | setPayload r | setFlag r v idx =>
    exact WritesPreg.leavesSameWhenRepeated (fun _ => ⟨_, _, _, rfl⟩) (by simp)
  | decode r => exact (writesPreg_decode r).leavesSameWhenRepeated (by simp)
  | rx r v => exact absurd rfl (hx r v)
  | xbegin => exact absurd rfl hb
  | xnext => exact absurd rfl hn
  | nop | cfgGetAddr | cfgGetPort | cfgGetFmt | xstat => cases hi
  | getSrc r | getDst r | getPort r | getFlags r | getLen r | getPayload r | getFlag r idx | getValid r => cases hi
  | encode r | matchFilter r => cases hi

/-! ### The statements -/

/-- Settles O14: the run of the commands with nothing behind them on the host's list. -/
theorem runAnswersEveryCommandInOrder : Obligations.RunAnswersEveryCommandInOrder := by
  unfold Obligations.RunAnswersEveryCommandInOrder
  intro cs s hd hr hbox
  exact run_of_inbox_commands cs [] s hd hr (hbox.trans (List.append_nil _).symm)

/-- Settles O22, from the two addresses at the front, the four bytes from 16 on and the payload behind them. -/
theorem frameLayout : Obligations.FrameLayout := by
  unfold Obligations.FrameLayout
  intro q hq
  have hlen : q.len < 65536 := Nat.lt_of_le_of_lt hq (by decide)
  refine ⟨frame_length q, frame_take_src q, ?_, frame_getElem?_add q 0, frame_getElem?_add q 1,
    ⟨_, _, frame_getElem?_add q 2, frame_getElem?_add q 3, lenHigh_toNat hlen, lenLow_toNat q.len⟩,
    frame_drop_header q, fun _ => rfl⟩
  rw [frame_drop_src]
  exact List.take_left' q.dst.size

/-- Settles O56: a reading command is told by the block alone, and a write of what is already written changes nothing. -/
theorem repeatingACommand : Obligations.RepeatingACommand := by
  unfold Obligations.RepeatingACommand
  intro i s
  refine ⟨fun hi => ?_, exec_write_leavesSameWhenRepeated s⟩
  obtain ⟨x, hx⟩ := exec_readOnly hi s
  exact ⟨x, hx s (.refl s), hx (s.advanced s.toBlock x) ⟨rfl, rfl, rfl⟩⟩

end Sys2Proof.Machine
end

section
/-! SUPPORT. Proofs about command words (30_encoding.md R59 to R77): the layout of the word's fields, the decoder
against the opcode map and against the legality of a word, and the round trips. -/

namespace Sys2Proof

/-! ### The fields of a word as numbers (30_encoding.md R59) -/

theorem fieldsOf_op_toNat (w : CmdWord) : (fieldsOf w).op.toNat = w.toNat / 1024 := by
  simp only [fieldsOf, opField, BitVec.extractLsb'_toNat, Nat.shiftRight_eq_div_pow]
  omega

theorem fieldsOf_r_toNat (w : CmdWord) : (fieldsOf w).r.toNat = w.toNat / 512 % 2 :=
  Nat.toNat_testBit w.toNat 9

theorem fieldsOf_v_toNat (w : CmdWord) : (fieldsOf w).v.toNat = w.toNat / 256 % 2 :=
  Nat.toNat_testBit w.toNat 8

theorem fieldsOf_rsv_toNat (w : CmdWord) : (fieldsOf w).rsv.toNat = w.toNat / 8 % 32 := by
  simp only [fieldsOf, rsvField, BitVec.extractLsb'_toNat, Nat.shiftRight_eq_div_pow, Nat.reducePow]

theorem fieldsOf_idx_toNat (w : CmdWord) : (fieldsOf w).idx.toNat = w.toNat % 8 := by
  simp only [fieldsOf, idxField, BitVec.extractLsb'_toNat, Nat.shiftRight_eq_div_pow]
  omega

theorem CmdFields.toNat_bounds (f : CmdFields) :
    f.op.toNat < 64 ∧ f.r.toNat < 2 ∧ f.v.toNat < 2 ∧ f.rsv.toNat < 32 ∧ f.idx.toNat < 8 :=
  ⟨f.op.isLt, f.r.toNat_lt, f.v.toNat_lt, f.rsv.isLt, f.idx.isLt⟩

/-- A number put above the `k` bits of a smaller one is added to it. -/
theorem shiftLeft_or_eq_add {b k : Nat} (a : Nat) (hb : b < 2 ^ k) : a <<< k ||| b = a * 2 ^ k + b := by
  rw [← Nat.shiftLeft_add_eq_or_of_lt hb, Nat.shiftLeft_eq]

/-- A field that fits into the word at bit `k` loses nothing there. -/
theorem setWidth_shiftLeft_toNat {n k : Nat} (b : BitVec n) (h : n + k ≤ 16) :
    (b.setWidth 16 <<< k).toNat = b.toNat <<< k := by
  have hb : b.toNat * 2 ^ k < 2 ^ 16 := calc
    b.toNat * 2 ^ k < 2 ^ n * 2 ^ k := Nat.mul_lt_mul_of_pos_right b.isLt (by positivity)
    _ ≤ 2 ^ 16 := by rw [← pow_add]; exact Nat.pow_le_pow_right (by decide) h
  rw [BitVec.toNat_shiftLeft, BitVec.toNat_setWidth_of_le (by omega), Nat.shiftLeft_eq, Nat.mod_eq_of_lt hb]

theorem wordOfFields_toNat (f : CmdFields) : (wordOfFields f).toNat =
    f.op.toNat * 1024 + f.r.toNat * 512 + f.v.toNat * 256 + f.rsv.toNat * 8 + f.idx.toNat := by
  obtain ⟨-, hr, hv, hrsv, hidx⟩ := f.toNat_bounds
  simp only [wordOfFields, BitVec.toNat_or, Nat.or_assoc]
  rw [setWidth_shiftLeft_toNat _ (by decide), setWidth_shiftLeft_toNat _ (by decide),
    setWidth_shiftLeft_toNat _ (by decide), setWidth_shiftLeft_toNat _ (by decide),
    BitVec.toNat_setWidth_of_le (by decide), BitVec.toNat_ofBool, BitVec.toNat_ofBool,
    shiftLeft_or_eq_add (k := 3) _ hidx, shiftLeft_or_eq_add (k := 8) _ (by omega),
    shiftLeft_or_eq_add (k := 9) _ (by omega), shiftLeft_or_eq_add (k := 10) _ (by omega)]
  omega

/-- The five fields make up the whole word. -/
theorem wordOfFields_fieldsOf (w : CmdWord) : wordOfFields (fieldsOf w) = w := by
  apply BitVec.eq_of_toNat_eq
  rw [wordOfFields_toNat, fieldsOf_op_toNat, fieldsOf_r_toNat, fieldsOf_v_toNat, fieldsOf_rsv_toNat,
    fieldsOf_idx_toNat]
  omega

theorem bool_eq_of_toNat_eq : ∀ {a b : Bool}, a.toNat = b.toNat → a = b := by
  decide

/-- The fields do not overlap: each reads back as it was written, whatever the others are (`Laws.EncodedFields` says so of
the fields that an instruction writes). -/
theorem fieldsOf_wordOfFields (f : CmdFields) : fieldsOf (wordOfFields f) = f := by
  have hw := wordOfFields_toNat f
  have hf := f.toNat_bounds
  rw [CmdFields.mk.injEq]
  refine ⟨BitVec.eq_of_toNat_eq ?_, bool_eq_of_toNat_eq ?_, bool_eq_of_toNat_eq ?_, BitVec.eq_of_toNat_eq ?_,
    BitVec.eq_of_toNat_eq ?_⟩
  · rw [fieldsOf_op_toNat]; omega
  · rw [fieldsOf_r_toNat]; omega
  · rw [fieldsOf_v_toNat]; omega
  · rw [fieldsOf_rsv_toNat]; omega
  · rw [fieldsOf_idx_toNat]; omega

/-- 30_encoding.md R77: the word for `p1` is 0x0200 more than the one for `p0`. -/
theorem wordOfFields_set_r {f : CmdFields} (h : f.r = false) :
    wordOfFields { f with r := true } = wordOfFields f + 0x0200 := by
  have hf := f.toNat_bounds
  apply BitVec.eq_of_toNat_eq
  rw [BitVec.toNat_add, wordOfFields_toNat, wordOfFields_toNat, h]
  simp only [Bool.toNat_true, Bool.toNat_false, BitVec.reduceToNat]
  omega

/-! ### The legality of the fields as numbers (30_encoding.md R70) -/

namespace CmdFields

variable (f : CmdFields)

theorem opAssigned_eq_false_iff : f.opAssigned = false ↔ f.op.toNat = 0x07 ∨ 0x1F ≤ f.op.toNat := by
  simp [opAssigned, ← BitVec.toNat_inj, or_iff_not_imp_left]

theorem rsvClear_eq_false_iff : f.rsvClear = false ↔ f.rsv.toNat ≠ 0 := by
  simp [rsvClear, ← BitVec.toNat_inj]

theorem rOk_eq_false_iff : f.rOk = false ↔ f.r.toNat ≠ 0 ∧ ¬(0x08 ≤ f.op.toNat ∧ f.op.toNat ≤ 0x1B) := by
  grind [rOk, usesR]

theorem vOk_eq_false_iff : f.vOk = false ↔ f.v.toNat ≠ 0 ∧ f.op.toNat ∉ [0x03, 0x0F, 0x1A] := by
  rw [and_comm]
  simp [vOk, usesV, ← BitVec.toNat_inj, and_assoc]

theorem idxOk_eq_false_iff : f.idxOk = false ↔ f.idx.toNat ≠ 0 ∧ f.op.toNat ∉ [0x0F, 0x16] := by
  rw [and_comm]
  simp [idxOk, usesIdx, ← BitVec.toNat_inj]

theorem wellFormed_eq_false_iff : f.wellFormed = false ↔ f.opAssigned = false ∨ f.rsvClear = false ∨
    f.rOk = false ∨ f.vOk = false ∨ f.idxOk = false := by
  simp only [wellFormed, Bool.and_eq_false_iff, or_assoc]

/-! ### The fields that a command uses -/

/-- `f` with 0 in every field that a command with the columns `useR`, `useV`, `useIdx` does not use
(30_encoding.md R68). -/
def kept (useR useV useIdx : Bool) : CmdFields :=
  { op := f.op, r := useR && f.r, v := useV && f.v, rsv := 0#5, idx := if useIdx then f.idx else 0#3 }

variable {f}

theorem kept_eq_self_iff {useR useV useIdx : Bool} : f.kept useR useV useIdx = f ↔
    f.rsv = 0#5 ∧ (f.r && !useR) = false ∧ (f.v && !useV) = false ∧ (f.idx ≠ 0#3 && !useIdx) = false := by
  obtain ⟨op, r, v, rsv, idx⟩ := f
  have hbit (use b : Bool) : (use && b) = b ↔ (b && !use) = false := by cases use <;> cases b <;> decide
  have hidx : (if useIdx then idx else 0#3) = idx ↔ (idx ≠ 0#3 && !useIdx) = false := by
    cases useIdx <;> simp [@eq_comm _ 0#3]
  simp only [kept, mk.injEq, true_and, hbit, hidx, @eq_comm _ 0#5]
  exact ⟨fun ⟨hr, hv, hrsv, hi⟩ => ⟨hrsv, hr, hv, hi⟩, fun ⟨hrsv, hr, hv, hi⟩ => ⟨hr, hv, hrsv, hi⟩⟩

/-- A word with an assigned opcode is legal when it has 0 in every field that its row of the opcode map leaves out. -/
theorem wellFormed_iff_kept_eq_self (hop : f.opAssigned = true) :
    f.wellFormed = true ↔ f.kept f.usesR f.usesV f.usesIdx = f := by
  have hbit (use b : Bool) : (use || !b) = true ↔ (b && !use) = false := by cases use <;> cases b <;> decide
  rw [kept_eq_self_iff]
  simp only [wellFormed, hop, rsvClear, rOk, vOk, idxOk, Bool.true_and, Bool.and_eq_true, beq_iff_eq, hbit, and_assoc]
  grind

/-- What the decoder may answer on `f`: on legal fields the command whose fields they are, on the others a rejection. -/
def Verdict (f : CmdFields) (d : Decoded) : Prop :=
  (f.wellFormed = true ∧ ∃ i, d = .legal i ∧ fieldsOfInstr i = f) ∨
    (f.wellFormed = false ∧ ∃ why, d = .illegal why)

end CmdFields

/-! ### The decoder -/

/-- `legalWhen` accepts exactly when no unused field is set (30_encoding.md R70, conditions 2 to 5). -/
theorem legalWhen_cases (useR useV useIdx : Bool) (f : CmdFields) (i : Instr) :
    (f.kept useR useV useIdx = f ∧ legalWhen useR useV useIdx f i = .legal i) ∨
    (f.kept useR useV useIdx ≠ f ∧ ∃ why, legalWhen useR useV useIdx f i = .illegal why) := by
  rw [ne_eq, CmdFields.kept_eq_self_iff, legalWhen]
  split
  · next h => exact .inr ⟨fun ⟨hrsv, _⟩ => h hrsv, _, rfl⟩
  · next hrsv =>
    split
    · next h => exact .inr ⟨fun ⟨_, hr, _⟩ => Bool.eq_false_iff.1 hr h, _, rfl⟩
    · next hr =>
      split
      · next h => exact .inr ⟨fun ⟨_, _, hv, _⟩ => Bool.eq_false_iff.1 hv h, _, rfl⟩
      · next hv =>
        split
        · next h => exact .inr ⟨fun ⟨_, _, _, hidx⟩ => Bool.eq_false_iff.1 hidx h, _, rfl⟩
        · next hidx =>
          exact .inl ⟨⟨not_not.1 hrsv, Bool.eq_false_iff.2 hr, Bool.eq_false_iff.2 hv, Bool.eq_false_iff.2 hidx⟩,
            rfl⟩

/-- One row of the opcode map: the decoder's columns are those of the legality check, and the encoder writes the row's
opcode and the fields that the row uses. -/
theorem legalWhen_verdict {useR useV useIdx : Bool} {f : CmdFields} {i : Instr} (hop : f.opAssigned = true)
    (hr : f.usesR = useR) (hv : f.usesV = useV) (hidx : f.usesIdx = useIdx)
    (hi : fieldsOfInstr i = f.kept useR useV useIdx) : f.Verdict (legalWhen useR useV useIdx f i) := by
  subst hr hv hidx
  have hwf := CmdFields.wellFormed_iff_kept_eq_self hop
  obtain ⟨hk, hlegal⟩ | ⟨hk, hillegal⟩ := legalWhen_cases f.usesR f.usesV f.usesIdx f i
  · exact .inl ⟨hwf.2 hk, i, hlegal, hi.trans hk⟩
  · exact .inr ⟨Bool.eq_false_iff.2 fun h => hk (hwf.1 h), hillegal⟩

theorem bitVec_eq_ofNat_of_toNat_eq {n k : Nat} {x : BitVec n} (h : x.toNat = k) : x = BitVec.ofNat n k := by
  rw [← h, BitVec.ofNat_toNat, BitVec.setWidth_eq]

/-- The decoder against the encoder's table and the legality check, by the thirty rows of the opcode map; its last arm
holds the reserved opcodes (30_encoding.md R69). -/
theorem decodeFields_verdict (f : CmdFields) : f.Verdict (decodeFields f) := by
  obtain ⟨op, r, v, rsv, idx⟩ := f
  simp only [decodeFields]
  split
  case h_31 =>
    have hop : CmdFields.opAssigned ⟨op, r, v, rsv, idx⟩ = false := by
      rw [CmdFields.opAssigned_eq_false_iff]
      grind
    exact .inr ⟨(CmdFields.wellFormed_eq_false_iff _).2 (.inl hop), _, rfl⟩
  all_goals
    next hop =>
    obtain rfl := bitVec_eq_ofNat_of_toNat_eq hop
    exact legalWhen_verdict rfl rfl rfl rfl (by cases r <;> rfl)

theorem decode_verdict (w : CmdWord) : (fieldsOf w).Verdict (decode w) :=
  decodeFields_verdict (fieldsOf w)

/-- The encoder's fields are read back as the command, over the values of its operands. -/
theorem decodeFields_fieldsOfInstr (i : Instr) : decodeFields (fieldsOfInstr i) = .legal i := by
  cases i with
  | nop | cfgSetAddr | cfgSetPort | cfgGetAddr | cfgGetPort | cfgGetFmt | xbegin | xnext | xstat => rfl
  | cfgSetFmt v => cases v <;> rfl
  | new r | make r | setSrc r | setDst r | setPort r | setFlags r | setPayload r => cases r <;> rfl
  | getSrc r | getDst r | getPort r | getFlags r | getLen r | getPayload r | getValid r => cases r <;> rfl
  | encode r | decode r | matchFilter r => cases r <;> rfl
  | rx r v => cases r <;> cases v <;> rfl
  | getFlag r idx => cases r <;> revert idx <;> decide
  | setFlag r v idx => cases r <;> cases v <;> revert idx <;> decide

theorem decode_encode (i : Instr) : decode (encode i) = .legal i := by
  rw [decode, encode, fieldsOf_wordOfFields, decodeFields_fieldsOfInstr]

theorem encode_of_decode {w : CmdWord} {i : Instr} (h : decode w = .legal i) : encode i = w := by
  obtain ⟨-, j, hj, hf⟩ | ⟨-, why, hwhy⟩ := decode_verdict w
  · obtain rfl := Decoded.legal.inj (h.symm.trans hj)
    rw [encode, hf, wordOfFields_fieldsOf]
  · cases h.symm.trans hwhy

/-- The decoder rejects exactly the words that the legality check of `WellFormed` rejects. -/
theorem decode_illegal_iff (w : CmdWord) :
    (∃ why, decode w = .illegal why) ↔ (fieldsOf w).wellFormed = false := by
  obtain ⟨hwf, i, hi, -⟩ | ⟨hwf, hwhy⟩ := decode_verdict w
  · simp [hwf, hi]
  · exact iff_of_true hwhy hwf

/-! ### The statements -/

/-- Settles O1: the word gives back the fields, and the fields give back the command. -/
theorem decodeOfEncodeIsIdentity : Obligations.DecodeOfEncodeIsIdentity := by
  unfold Obligations.DecodeOfEncodeIsIdentity
  exact decode_encode

/-- Settles O2: a decoded command has the word's own fields, and they make up the whole word. -/
theorem encodeOfDecodeIsWord : Obligations.EncodeOfDecodeIsWord := by
  unfold Obligations.EncodeOfDecodeIsWord
  exact fun _ _ => encode_of_decode

/-- Settles O3, from the decoder's verdict and the five checks read as numbers. -/
theorem wordIllegalExactlyWhen : Obligations.WordIllegalExactlyWhen := by
  unfold Obligations.WordIllegalExactlyWhen
  intro w
  rw [decode_illegal_iff, CmdFields.wellFormed_eq_false_iff, CmdFields.opAssigned_eq_false_iff,
    CmdFields.rsvClear_eq_false_iff, CmdFields.rOk_eq_false_iff, CmdFields.vOk_eq_false_iff,
    CmdFields.idxOk_eq_false_iff, fieldsOf_op_toNat, fieldsOf_r_toNat, fieldsOf_v_toNat, fieldsOf_rsv_toNat,
    fieldsOf_idx_toNat]

/-- Settles O4: the legal words are the encodings of their commands; the two illegal ones are evaluated. -/
theorem sampleWordsDecode : Obligations.SampleWordsDecode := by
  unfold Obligations.SampleWordsDecode
  exact ⟨decode_encode .nop, decode_encode (.cfgSetFmt true), decode_encode (.new .p1),
    decode_encode (.setFlag .p0 true 0), decode_encode (.setFlag .p1 true 7), decode_encode (.getFlag .p1 7),
    decode_encode (.encode .p0), decode_encode (.rx .p1 true), decode_encode .xnext, by decide, by decide⟩

/-- Settles O5: the table for `p0` is evaluated, and `p1` differs from it in the bit `r` alone. -/
theorem pseudoInstructionWords : Obligations.PseudoInstructionWords := by
  unfold Obligations.PseudoInstructionWords
  refine ⟨by decide, by decide, by decide, by decide, fun f => ?_, fun f v => ?_, by decide, by decide⟩
  · exact wordOfFields_set_r (f := fieldsOfInstr (expandPseudo (.isNamed f .p0))) rfl
  · exact wordOfFields_set_r (f := fieldsOfInstr (expandPseudo (.setNamed f .p0 v))) rfl

end Sys2Proof
end

section
/-! SUPPORT. Proofs about the command triple and the response (30_encoding.md R58, R64 to R67, R71): the operands that a
command reads, the statuses that it answers, and a command at the port. -/

namespace Sys2Proof.Machine

/-! ### The operands that a command reads -/

/-- A command does the same on every content of the channels that it does not read, and leaves the channels as they are
(30_encoding.md R64, R65). -/
theorem exec_with_operands {i : Instr} {s : State} {a : Word} {d : Bytes} (ha : i.readsArg = true → a = s.arg)
    (hd : i.readsDin = true → d = s.din) :
    ∃ t, exec i s = .next t ∧ exec i { s with arg := a, din := d } = .next { t with arg := a, din := d } := by
  cases i with
  | nop | cfgGetAddr | cfgGetPort | cfgGetFmt | cfgSetFmt v | xbegin | xstat => exact ⟨_, rfl, rfl⟩
  | getSrc r | getDst r | getPort r | getFlags r | getLen r | getPayload r | getFlag r idx | getValid r =>
    exact ⟨_, rfl, rfl⟩
  | encode r | matchFilter r => exact ⟨_, rfl, rfl⟩
  | cfgSetAddr =>
    obtain rfl := hd rfl
    exact ⟨_, rfl, rfl⟩
  | cfgSetPort =>
    obtain rfl := ha rfl
    exact ⟨_, rfl, rfl⟩
  | setFlag r v idx => cases r <;> exact ⟨_, rfl, rfl⟩
  | setPort r | setFlags r =>
    obtain rfl := ha rfl
    cases r <;> exact ⟨_, rfl, rfl⟩
  | make r | setSrc r | setDst r | setPayload r =>
    obtain rfl := hd rfl
    cases r <;> exact ⟨_, rfl, rfl⟩
  | new r =>
    obtain rfl := ha rfl
    obtain rfl := hd rfl
    cases r <;> exact ⟨_, rfl, rfl⟩
  | decode r =>
    obtain rfl := hd rfl
    simp only [exec, execDecode]
    split <;> cases r <;> exact ⟨_, rfl, rfl⟩
  | rx r v =>
    obtain rfl := hd rfl
    simp only [exec, execRx]
    split
    · exact ⟨_, rfl, rfl⟩
    · split
      · exact ⟨_, rfl, rfl⟩
      · split <;> cases r <;> exact ⟨_, rfl, rfl⟩
  | xnext =>
    simp only [exec, execXnext]
    split
    · split <;> exact ⟨_, rfl, rfl⟩
    · exact ⟨_, rfl, rfl⟩

/-- One channel read and the other not: the outcome `t` on the state's own channels carries over. -/
theorem exec_with_operands_of_next {i : Instr} {s t : State} {a : Word} {d : Bytes} (h : exec i s = .next t)
    (ha : i.readsArg = true → a = s.arg) (hd : i.readsDin = true → d = s.din) :
    exec i { s with arg := a, din := d } = .next { t with arg := a, din := d } := by
  obtain ⟨u, hu, hud⟩ := exec_with_operands ha hd
  obtain rfl := Host.Outcome.next.inj (h.symm.trans hu)
  exact hud

/-! ### The statuses that a command answers -/

/-- The status of a response is the one that the command gave it. -/
theorem mayAnswer_of_respond {i : Instr} {s u t : State} {x : Response} {st : Status} {v : Nat} {d : Bytes}
    (h : respond u st v d = .next t) (hu : u.responses = s.responses) (hx : t.responses = s.responses ++ [x])
    (hst : i.mayAnswer st) : i.mayAnswer x.status := by
  obtain rfl := respond_next h
  obtain rfl : _ = x := by simpa [hu] using hx
  exact hst

/-- 30_encoding.md R67, the column "produced by", over the branches of DECODE, RX and XNEXT; the others answer OK. -/
theorem exec_mayAnswer {i : Instr} {s t : State} {x : Response} (h : exec i s = .next t)
    (hx : t.responses = s.responses ++ [x]) : i.mayAnswer x.status := by
  cases i with
  | decode r =>
    simp only [exec, execDecode] at h
    split at h
    · exact mayAnswer_of_respond h (by simp) hx trivial
    · exact mayAnswer_of_respond h (by simp) hx ⟨r, .inl rfl⟩
  | rx r v =>
    simp only [exec, execRx] at h
    split at h
    · exact mayAnswer_of_respond h rfl hx ⟨r, v, rfl⟩
    · split at h
      · next hfiltered =>
        obtain ⟨rfl, -⟩ := Bool.and_eq_true_iff.1 hfiltered
        exact mayAnswer_of_respond h rfl hx ⟨r, rfl⟩
      · split at h
        · exact mayAnswer_of_respond h (by simp) hx trivial
        · exact mayAnswer_of_respond h (by simp) hx ⟨r, .inr ⟨v, rfl⟩⟩
  | xnext =>
    simp only [exec, execXnext] at h
    split at h
    · split at h
      · exact mayAnswer_of_respond h rfl hx rfl
      · exact mayAnswer_of_respond h rfl hx trivial
    · exact mayAnswer_of_respond h rfl hx rfl
  | _ => exact mayAnswer_of_respond (st := .ok) h (by simp) hx trivial

/-! ### The statements -/

/-- Settles O8: at the port every command that can be issued has one block and one response for its outcome. -/
theorem everyCommandGetsOneResponse : Obligations.EveryCommandGetsOneResponse := by
  unfold Obligations.EveryCommandGetsOneResponse
  intro s c hd
  obtain ⟨b, x, hcommand⟩ := runCommand_eq_advanced hd s
  exact ⟨(s.advanced b x).retire, x, hcommand s rfl, rfl, rfl, rfl, rfl, rfl⟩

/-- Settles O16: one channel is replaced and the other kept. -/
theorem unreadOperandsAreIgnored : Obligations.UnreadOperandsAreIgnored := by
  unfold Obligations.UnreadOperandsAreIgnored
  intro i s a d
  obtain ⟨t, ht, hanswers⟩ := exec_answers i s
  refine ⟨t, ht, fun hi => ?_, fun hi => ?_⟩
  · rw [hanswers.din]
    exact exec_with_operands_of_next ht (fun hreads => absurd (hi.symm.trans hreads) Bool.false_ne_true) fun _ => rfl
  · rw [hanswers.arg]
    exact exec_with_operands_of_next ht (fun _ => rfl) fun hreads => absurd (hi.symm.trans hreads) Bool.false_ne_true

/-- Settles O17: the codes are evaluated, and every command answers only what its row lists. -/
theorem statusesProducedAsListed : Obligations.StatusesProducedAsListed := by
  unfold Obligations.StatusesProducedAsListed
  exact ⟨by decide, fun _ _ _ _ => exec_mayAnswer⟩

/-- Settles O6: the port accepts the command, executes it and clears the channels. -/
theorem stepRunsDecodedCommand : Obligations.StepRunsDecodedCommand := by
  unfold Obligations.StepRunsDecodedCommand
  intro s c rest i hr hbox hd hi
  obtain ⟨t, ht, hrun, -⟩ := runCommand_of_legal hd hi { s with inbox := rest }
  rw [step_of_inbox_command hr hbox, hrun]
  exact (congrArg afterExec ht).symm

/-- Settles O7: an illegal word is answered before anything is executed. -/
theorem illegalWordAnsweredIllegal : Obligations.IllegalWordAnsweredIllegal := by
  unfold Obligations.IllegalWordAnsweredIllegal
  intro s c why hw hd
  exact runCommand_of_illegal hd hw s

end Sys2Proof.Machine
end

section
/-! SUPPORT. Proofs about the codec (40_codec.md): clamping, address fitting and trimming, what parse accepts, the round
trip over frame and parse, and the commands ENCODE and DECODE. -/

namespace Sys2Proof.Machine

/-! ### Clamping and addresses -/

theorem clampN_of_neg (n : Nat) {x : Int} (h : x < 0) : clampN n x = 0#n := if_pos h

theorem clampN_of_gt (n : Nat) {x : Int} (h : (2 : Int) ^ n - 1 < x) : clampN n x = BitVec.ofNat n (2 ^ n - 1) := by
  have hpow : (0 : Int) < 2 ^ n := by positivity
  rw [clampN, if_neg (by omega), if_pos h]

theorem clampN_of_mem (n : Nat) {x : Int} (h0 : 0 ≤ x) (hx : x ≤ (2 : Int) ^ n - 1) :
    clampN n x = BitVec.ofNat n x.toNat := by
  rw [clampN, if_neg (by omega), if_neg (by omega)]

/-- 40_codec.md R79: a place within the string keeps its byte, a place behind it is padding. -/
theorem fit8_getElem? (b : Bytes) {i : Nat} (hi : i < 8) : (fit8 b).bytes[i]? = some (b[i]?.getD Config.padByte) := by
  simp only [fit8]
  by_cases h : i < b.length
  · rw [List.getElem?_append_left (by rw [List.length_take]; omega), List.getElem?_take_of_lt hi,
      List.getElem?_eq_getElem h, Option.getD_some]
  · rw [List.getElem?_append_right (by rw [List.length_take]; omega), List.length_take,
      List.getElem?_replicate_of_lt (by omega), List.getElem?_eq_none (by omega), Option.getD_none]

/-- The trimmed length is the least place from which on there is only padding: from `k` on there is only padding exactly
when `k` is at or behind it (40_codec.md R80). -/
theorem trimlenBytes_le_iff (b : Bytes) (k : Nat) : trimlenBytes b ≤ k ↔ ∀ x ∈ b.drop k, x = Config.padByte := by
  induction b generalizing k with
  | nil => simp [trimlenBytes]
  | cons y ys ih =>
    have hzero := ih 0
    simp only [trimlenBytes]
    cases k with
    | zero =>
      rw [List.drop_zero] at hzero
      rw [List.drop_zero, List.forall_mem_cons, ← hzero]
      split
      · next h => exact iff_of_true le_rfl ⟨h.2, h.1.le⟩
      · next h => exact iff_of_false (Nat.not_succ_le_zero _) fun ⟨hy, hys⟩ => h ⟨Nat.le_zero.1 hys, hy⟩
    | succ k =>
      rw [List.drop_succ_cons, ← ih]
      split <;> omega

theorem trimlen_le_iff (a : Addr) (k : Nat) : trimlen a ≤ k ↔ ∀ x ∈ a.bytes.drop k, x = Config.padByte :=
  trimlenBytes_le_iff a.bytes k

theorem trimlen_le_eight (a : Addr) : trimlen a ≤ 8 := (trimlenBytes_le a.bytes).trans_eq a.size

/-! ### What parse accepts -/

/-- The sentinel is not valid, and what a whole frame parses to is. -/
theorem parse_eq_emptyPkt_iff (b : Bytes) :
    parse b = emptyPkt ↔ b.length < 20 ∨ 1024 < bigEndian b 18 ∨ b.length < 20 + bigEndian b 18 := by
  obtain ⟨hp, hfail⟩ | ⟨hp, hlen, hmax⟩ := parse_cases b
  · exact iff_of_true hp hfail
  · have hvalid : (parse b).valid = true := by rw [hp, packetAt]
    refine iff_of_false (fun he => ?_) (by omega)
    rw [he] at hvalid
    cases hvalid

/-- A string that holds its header and the bytes declared there, within the payload bound (40_codec.md R82). -/
theorem parse_of_whole {b : Bytes} (hmax : bigEndian b 18 ≤ 1024) (hlen : 20 + bigEndian b 18 ≤ b.length) :
    parse b = packetAt b 0 (bigEndian b 18) := by
  obtain ⟨-, hfail⟩ | ⟨hp, -, -⟩ := parse_cases b
  · omega
  · exact hp

/-- The packet at an offset reads no byte behind it. -/
theorem packetAt_take {b : Bytes} {o l k : Nat} (h : o + 20 + l ≤ k) : packetAt (b.take k) o l = packetAt b o l := by
  have hslice : ∀ i j, j ≤ k → slice (b.take k) i j = slice b i j := fun i j hj => by
    rw [slice, slice, List.take_take, Nat.min_eq_left hj]
  rw [packetAt, packetAt, hslice _ _ (by omega), hslice _ _ (by omega), hslice _ _ h, byteAt_take _ _ _ (by omega),
    byteAt_take _ _ _ (by omega)]

/-- 40_codec.md R84: the same length field is read, and no frame that is accepted reaches behind byte 1044. -/
theorem parse_take {b : Bytes} {k : Nat} (hk : 1044 ≤ k) : parse (b.take k) = parse b := by
  have hbe : bigEndian (b.take k) 18 = bigEndian b 18 := bigEndian_take b 18 k (by omega)
  obtain ⟨hp, hfail⟩ | ⟨hp, hlen, hmax⟩ := parse_cases b
  · rw [hp, parse_eq_emptyPkt_iff, hbe, List.length_take]
    omega
  · have hlen' : 20 + bigEndian b 18 ≤ (b.take k).length := by
      rw [List.length_take]
      omega
    rw [hp, parse_of_whole (hbe.trans_le hmax) (hbe ▸ hlen'), hbe, packetAt_take (by omega)]

/-- 40_codec.md R82, R85: a frame parses to its packet, whatever stands behind it. -/
theorem parse_frame_append {q : Packet} (hq : q.wf) (c : Bytes) : parse (frame q ++ c) = { q with valid := true } := by
  have hlen : q.len ≤ 1024 := hq
  have hbe : bigEndian (frame q ++ c) 18 = q.len := bigEndian_frame [] c (by omega)
  have hwhole : 20 + q.len ≤ (frame q ++ c).length := by
    rw [List.length_append, frame_length]
    omega
  rw [parse_of_whole (hbe.trans_le hlen) (hbe ▸ hwhole), hbe]
  exact packetAt_frame [] c q

theorem parse_frame {q : Packet} (hq : q.wf) : parse (frame q) = { q with valid := true } := by
  simpa using parse_frame_append hq []

/-! ### ENCODE and DECODE -/

@[simp] theorem State.answered_preg (s : State) (st : Status) (v : Nat) (d : Bytes) (r : PReg) :
    (s.answered st v d).preg r = s.preg r := by
  cases r <;> rfl

@[simp] theorem State.answered_lastStatus (s : State) (st : Status) (v : Nat) (d : Bytes) :
    (s.answered st v d).lastStatus = some st := by
  simp [lastStatus, answered]

@[simp] theorem State.answered_lastDout (s : State) (st : Status) (v : Nat) (d : Bytes) :
    (s.answered st v d).lastDout = d := by
  simp [lastDout, answered]

@[simp] theorem State.accept_preg (s : State) (c : Command) (r : PReg) : (s.accept c).preg r = s.preg r := by
  cases r <;> rfl

@[simp] theorem State.retire_preg (s : State) (r : PReg) : s.retire.preg r = s.preg r := by
  cases r <;> rfl

@[simp] theorem State.retire_lastStatus (s : State) : s.retire.lastStatus = s.lastStatus := rfl
@[simp] theorem State.retire_lastDout (s : State) : s.retire.lastDout = s.lastDout := rfl

/-- ENCODE reads the register and writes nothing (40_codec.md R86). -/
theorem exec_encode (r : PReg) (s : State) :
    exec (.encode r) s = .next (s.answered .ok (20 + (s.preg r).len) (frame (s.preg r))) := by
  rw [← frame_length]
  rfl

/-- DECODE of a string that parses (40_codec.md R87). -/
theorem exec_decode_of_valid {r : PReg} {s : State} (h : (parse s.din).valid = true) :
    exec (.decode r) s = .next ((s.writePreg r (parse s.din)).answered .ok (parse s.din).len []) := by
  simp only [exec, execDecode, h, if_true]
  rfl

/-- DECODE of a string that does not parse leaves the sentinel (40_codec.md R87). -/
theorem exec_decode_of_invalid {r : PReg} {s : State} (h : (parse s.din).valid = false) :
    exec (.decode r) s = .next ((s.writePreg r emptyPkt).answered .empty 0 []) := by
  simp only [exec, execDecode, parse_empty_of_invalid h]
  rfl

theorem exec_decode (r : PReg) (s : State) :
    exec (.decode r) s = .next
      (if (parse s.din).valid then (s.writePreg r (parse s.din)).answered .ok (parse s.din).len []
      else (s.writePreg r emptyPkt).answered .empty 0 []) := by
  split
  · next h => exact exec_decode_of_valid h
  · next h => exact exec_decode_of_invalid (Bool.eq_false_iff.2 h)

/-- A command at the port, from what it does with its operands on the channels. -/
theorem runCommand_of_exec {i : Instr} {a : Word} {d : Bytes} {s t : State} (hd : d.length ≤ 65535)
    (h : exec i (s.accept ⟨encode i, a, d⟩) = .next t) : runCommand ⟨encode i, a, d⟩ s = .next t.retire := by
  obtain ⟨u, hu, hrun, -⟩ := runCommand_of_legal (c := ⟨encode i, a, d⟩) hd (decode_encode i) s
  obtain rfl := Host.Outcome.next.inj (h.symm.trans hu)
  exact hrun

/-- ENCODE at the port leaves every packet register as it is and the frame on `dout`. -/
theorem runCommand_encode (r : PReg) (a : Word) {d : Bytes} (hd : d.length ≤ 65535) (s : State) :
    ∃ t, runCommand ⟨encode (.encode r), a, d⟩ s = .next t ∧ t.lastDout = frame (s.preg r) :=
  ⟨_, runCommand_of_exec hd (exec_encode r _), by simp⟩

/-- DECODE of a packet's frame at the port leaves the packet, valid, in the register (40_codec.md R85). -/
theorem runCommand_decode_frame (r : PReg) (a : Word) {q : Packet} (hq : q.wf) (s : State) :
    ∃ t, runCommand ⟨encode (.decode r), a, frame q⟩ s = .next t ∧ t.preg r = { q with valid := true } ∧
      t.lastStatus = some .ok := by
  have hdin : (frame q).length ≤ 65535 := (frame_length_le hq).trans (by decide)
  have hparse : parse (s.accept ⟨encode (.decode r), a, frame q⟩).din = { q with valid := true } := parse_frame hq
  have hexec := exec_decode_of_valid (r := r) (congrArg Packet.valid hparse)
  rw [hparse] at hexec
  exact ⟨_, runCommand_of_exec hdin hexec, by simp, by simp⟩

/-! ### The statements -/

/-- Settles O26: the frame with nothing behind it. -/
theorem parseOfFrameIsPacket : Obligations.ParseOfFrameIsPacket := by
  unfold Obligations.ParseOfFrameIsPacket
  exact fun _ => parse_frame

/-- Settles O20, from the characterisation of the trimmed length by the places from which on there is only padding. -/
theorem trimmedLengthIsLeast : Obligations.TrimmedLengthIsLeast := by
  unfold Obligations.TrimmedLengthIsLeast
  intro a
  exact ⟨trimlen_le_eight a, (trimlen_le_iff a _).1 le_rfl, fun k => (trimlen_le_iff a k).2, slice_zero _ _⟩

/-- Settles O23: the parse is the packet at offset 0, whose two address slices have 8 bytes each. -/
theorem parseReadsWholeFrame : Obligations.ParseReadsWholeFrame := by
  unfold Obligations.ParseReadsWholeFrame
  intro b hheader hmax hlen
  have hsrc : (slice b 0 8).length = 8 := by rw [slice_length]; omega
  have hdst : (slice b 8 16).length = 8 := by rw [slice_length]; omega
  rw [parse_of_whole hmax hlen]
  refine ⟨rfl, (fit8_bytes_of_eight hsrc).trans (slice_zero b 8),
    (fit8_bytes_of_eight hdst).trans (slice_eq_take_drop b 8 16), rfl, rfl, ?_⟩
  change slice b 20 (20 + bigEndian b 18) = _
  rw [slice_eq_take_drop, Nat.add_sub_cancel_left]
  rfl

/-- Settles O24, which is the model's parse read with the length field written out. -/
theorem parseFailureIsClosedList : Obligations.ParseFailureIsClosedList := by
  unfold Obligations.ParseFailureIsClosedList
  exact parse_eq_emptyPkt_iff

/-- Settles O25: a cut at or behind byte 1044 is not seen by the parse, so the string's own length plays no part. -/
theorem parseOfLongPrefix : Obligations.ParseOfLongPrefix := by
  unfold Obligations.ParseOfLongPrefix
  exact fun _ _ _ hk _ => parse_take hk

/-- Settles O43: ENCODE's `dout` is the frame, and DECODE of a frame gives its packet. -/
theorem encodeThenDecodeCopies : Obligations.EncodeThenDecodeCopies := by
  unfold Obligations.EncodeThenDecodeCopies
  intro s r r' a a' d hq hd
  obtain ⟨t, hencode, hdout⟩ := runCommand_encode r a hd s
  obtain ⟨u, hdecode, hcopy, hok⟩ := runCommand_decode_frame r' a' hq t
  exact ⟨t, u, hencode, hdout ▸ hdecode, hcopy, hok⟩

/-- Settles O18, by the three ranges; the largest value and every value up to it fit the width. -/
theorem clampSaturates : Obligations.ClampSaturates := by
  unfold Obligations.ClampSaturates
  intro n x
  have hpow : 0 < 2 ^ n := Nat.two_pow_pos n
  refine ⟨fun h => ?_, fun h => ?_, fun h0 hx => ?_⟩
  · rw [clampN_of_neg n h, BitVec.toNat_ofNat, Nat.zero_mod]
  · rw [clampN_of_gt n h, BitVec.toNat_ofNat, Nat.mod_eq_of_lt (by omega)]
  · have hcast : ((2 ^ n : Nat) : Int) = 2 ^ n := by norm_cast
    rw [clampN_of_mem n h0 hx, BitVec.toNat_ofNat, Nat.mod_eq_of_lt (by omega), Int.toNat_of_nonneg h0]

/-- Settles O19, with the string's byte or its absence written as a case split. -/
theorem fitPadsOrTruncatesToEight : Obligations.FitPadsOrTruncatesToEight := by
  unfold Obligations.FitPadsOrTruncatesToEight
  intro b
  refine ⟨(fit8 b).size, fun i hi => ?_⟩
  rw [fit8_getElem? b hi]
  split
  · next h => rw [List.getElem?_eq_getElem h, Option.getD_some]
  · next h => rw [List.getElem?_eq_none (Nat.not_lt.1 h), Option.getD_none]

/-- Settles O41: the two words are evaluated. -/
theorem encodeGivesFrame : Obligations.EncodeGivesFrame := by
  unfold Obligations.EncodeGivesFrame
  exact ⟨by decide, by decide, fun s r => exec_encode r s⟩

/-- Settles O42: the two words are evaluated, and a write to `P[0]` ends the scan where one to `P[1]` does not. -/
theorem decodeWritesParse : Obligations.DecodeWritesParse := by
  unfold Obligations.DecodeWritesParse
  exact ⟨by decide, by decide, fun s => ⟨exec_decode .p0 s, exec_decode .p1 s⟩⟩

end Sys2Proof.Machine
end

section
/-! SUPPORT. Proofs about the packet commands (41_packet.md; 42_flags.md R100, R101): the parts of NEW's `din`, NEW, the
field mutators and the field accessors. -/

namespace Sys2Proof.Machine

/-! ### The parts of `din` -/

/-- A slice that begins behind the string is empty, so its beginning can be cut to the string. -/
theorem slice_min_left (b : Bytes) (i j : Nat) : slice b (min b.length i) j = slice b i j := by
  obtain h | h := Nat.le_total i b.length
  · rw [Nat.min_eq_right h]
  · rw [Nat.min_eq_left h, slice, slice, List.drop_eq_nil_of_le (List.length_take_le' j b),
      List.drop_eq_nil_of_le ((List.length_take_le' j b).trans h)]

/-- A slice takes no byte behind the string, so its end can be cut to the string. -/
theorem slice_min_right (b : Bytes) (i j : Nat) : slice b i (min b.length j) = slice b i j := by
  rw [slice, slice, Nat.min_comm, ← List.take_take, List.take_length]

theorem newSrc_eq (din : Bytes) : newSrc din = fit8 (din.take 8) := by
  rw [newSrc, slice_min_right, slice_zero]

theorem newDst_eq (din : Bytes) : newDst din = fit8 ((din.drop 8).take 8) := by
  rw [newDst, slice_min_left, slice_min_right, slice_eq_take_drop]

theorem newPayload_eq (din : Bytes) : newPayload din = (din.drop 16).take 1024 := by
  rw [newPayload, slice_min_left, slice_min_right, slice_eq_take_drop, Nat.add_sub_cancel_left, Config.maxPayload_eq]

theorem fitPayload_eq (b : Bytes) : fitPayload b = b.take 1024 := by
  rw [fitPayload, slice_min_right, slice_zero, Config.maxPayload_eq]

/-- The integer operand, clamped for an 8-bit field (30_encoding.md R64, 40_codec.md R78). -/
theorem clamp8_intArg (s : State) : clamp8 s.intArg = clampN 8 s.arg.toInt := rfl

/-! ### Responses and words -/

theorem respond_eq_answered (s : State) (st : Status) (v : Nat) (d : Bytes) :
    respond s st v d = .next (s.answered st v d) := rfl

theorem respondOk_eq_answered (s : State) : respondOk s = .next (s.answered .ok 0 []) := rfl

/-- The words of a command that names a packet register, as one case split. -/
theorem encode_eq_ite {i : PReg → Instr} {w0 w1 : CmdWord} (h0 : encode (i .p0) = w0) (h1 : encode (i .p1) = w1)
    (r : PReg) : encode (i r) = if r = .p0 then w0 else w1 := by
  cases r with
  | p0 => rw [h0, if_pos rfl]
  | p1 => rw [h1, if_neg (by decide)]

/-! ### The commands that write a packet register -/

section
variable (r : PReg) (s : State)

/-- 41_packet.md R88. -/
theorem exec_new : exec (.new r) s = .next ((s.writePreg r
    { valid := true, src := fit8 (s.din.take 8), dst := fit8 ((s.din.drop 8).take 8),
      port := clampN 8 s.arg.toInt, flags := 0#8, pay := (s.din.drop 16).take 1024 }).answered .ok 0 []) := by
  rw [exec, execNew, respondOk_eq_answered, newSrc_eq, newDst_eq, newPayload_eq, clamp8_intArg]

/-- 41_packet.md R89. -/
theorem exec_setSrc : exec (.setSrc r) s =
    .next ((s.writePreg r { s.preg r with src := fit8 s.din }).answered .ok 0 []) := by
  rw [exec, execSetSrc, respondOk_eq_answered]

/-- 41_packet.md R90. -/
theorem exec_setDst : exec (.setDst r) s =
    .next ((s.writePreg r { s.preg r with dst := fit8 s.din }).answered .ok 0 []) := by
  rw [exec, execSetDst, respondOk_eq_answered]

/-- 41_packet.md R91. -/
theorem exec_setPort : exec (.setPort r) s =
    .next ((s.writePreg r { s.preg r with port := clampN 8 s.arg.toInt }).answered .ok 0 []) := by
  rw [exec, execSetPort, respondOk_eq_answered, clamp8_intArg]

/-- 42_flags.md R100. -/
theorem exec_setFlags : exec (.setFlags r) s =
    .next ((s.writePreg r { s.preg r with flags := clampN 8 s.arg.toInt }).answered .ok 0 []) := by
  rw [exec, execSetFlags, respondOk_eq_answered, clamp8_intArg]

/-- 41_packet.md R92. -/
theorem exec_setPayload : exec (.setPayload r) s =
    .next ((s.writePreg r { s.preg r with pay := s.din.take 1024 }).answered .ok 0 []) := by
  rw [exec, execSetPayload, respondOk_eq_answered, fitPayload_eq]

end

/-! ### The statements -/

/-- Settles O32: the operands cut to `din` are its first and second eight bytes and the rest. -/
theorem newBuildsPacket : Obligations.NewBuildsPacket := by
  unfold Obligations.NewBuildsPacket
  exact ⟨by decide, by decide, fun s => ⟨exec_new .p0 s, exec_new .p1 s⟩⟩

/-- Settles O34, by the write to each register. -/
theorem addressMutators : Obligations.AddressMutators := by
  unfold Obligations.AddressMutators
  exact ⟨by decide, by decide, by decide, by decide, fun s =>
    ⟨exec_setSrc .p0 s, exec_setSrc .p1 s, exec_setDst .p0 s, exec_setDst .p1 s⟩⟩

/-- Settles O35, by the write to each register. -/
theorem clampedMutators : Obligations.ClampedMutators := by
  unfold Obligations.ClampedMutators
  exact ⟨by decide, by decide, by decide, by decide, fun s =>
    ⟨exec_setPort .p0 s, exec_setPort .p1 s, exec_setFlags .p0 s, exec_setFlags .p1 s⟩⟩

/-- Settles O36: the payload operand cut to `din` is its first 1024 bytes. -/
theorem payloadMutator : Obligations.PayloadMutator := by
  unfold Obligations.PayloadMutator
  exact ⟨by decide, by decide, fun s => ⟨exec_setPayload .p0 s, exec_setPayload .p1 s⟩⟩

/-- Settles O37: every accessor responds with what it reads of `P[r]`, on the state as it is. -/
theorem fieldAccessors : Obligations.FieldAccessors := by
  unfold Obligations.FieldAccessors
  refine ⟨encode_eq_ite (by decide) (by decide), encode_eq_ite (by decide) (by decide),
    encode_eq_ite (by decide) (by decide), encode_eq_ite (by decide) (by decide),
    encode_eq_ite (by decide) (by decide), encode_eq_ite (by decide) (by decide),
    encode_eq_ite (by decide) (by decide), fun s r => ?_⟩
  exact ⟨respond_eq_answered s .ok _ _, respond_eq_answered s .ok _ _, respond_eq_answered s .ok _ _,
    respond_eq_answered s .ok _ _, respond_eq_answered s .ok _ _, respond_eq_answered s .ok _ _,
    respond_eq_answered s .ok _ _⟩

end Sys2Proof.Machine
end

section
/-! SUPPORT. Proofs about the named flags (42_flags.md R102 to R104): the words of SET_FLAG and GET_FLAG, the flag read back
after a write of the same and of another flag, and the two commands. -/

namespace Sys2Proof

theorem PReg.other_ne (r : PReg) : r.other ≠ r := by
  cases r <;> decide

end Sys2Proof

namespace Sys2Proof.Machine

/-! ### The words -/

/-- `v` and `idx` are added to the word of a command's opcode and register (30_encoding.md R59). -/
theorem wordOfFields_set_v_idx (op : BitVec 6) (r : PReg) (v : Bool) (idx : BitVec 3) :
    wordOfFields { regFields op r with v := v, idx := idx } =
      wordOfFields (regFields op r) ||| (BitVec.ofBool v).setWidth 16 <<< 8 ||| idx.setWidth 16 := by
  simp [wordOfFields, regFields, plainFields]

theorem wordOfFields_set_idx (op : BitVec 6) (r : PReg) (idx : BitVec 3) :
    wordOfFields { regFields op r with idx := idx } = wordOfFields (regFields op r) ||| idx.setWidth 16 := by
  simp [wordOfFields, regFields, plainFields]

theorem encode_setFlag {r : PReg} {w : CmdWord} (hw : wordOfFields (regFields 0x0F r) = w) (v : Bool)
    (idx : BitVec 3) : encode (.setFlag r v idx) = w ||| (BitVec.ofBool v).setWidth 16 <<< 8 ||| idx.setWidth 16 :=
  hw ▸ wordOfFields_set_v_idx 0x0F r v idx

theorem encode_getFlag {r : PReg} {w : CmdWord} (hw : wordOfFields (regFields 0x16 r) = w) (idx : BitVec 3) :
    encode (.getFlag r idx) = w ||| idx.setWidth 16 :=
  hw ▸ wordOfFields_set_idx 0x16 r idx

/-! ### The flag byte -/

/-- Distinct flags have distinct bits (10_state.md R24). -/
theorem flag_bit_inj {i j : BitVec 3} (h : 7 - i.toNat = 7 - j.toNat) : i = j := by
  bv_omega

theorem flagBit_setFlagBit_same (f : BitVec 8) (idx : BitVec 3) (v : Bool) :
    flagBit (setFlagBit f idx v) idx = v := by
  rw [flagBit, setFlagBit_getLsbD f idx v (by omega), if_pos rfl]

theorem flagBit_setFlagBit_of_ne (f : BitVec 8) {idx j : BitVec 3} (h : j ≠ idx) (v : Bool) :
    flagBit (setFlagBit f idx v) j = flagBit f j := by
  rw [flagBit, setFlagBit_getLsbD f idx v (by omega), if_neg (mt flag_bit_inj h), flagBit]

/-! ### The commands -/

/-- A write to `P[0]` ends the scan, a write to `P[1]` does not (43_group.md R106). -/
theorem State.writePreg_scanActive (s : State) (r : PReg) (q : Packet) :
    (s.writePreg r q).scanActive = if r = .p0 then false else s.scanActive := by
  cases r <;> rfl

@[simp] theorem State.answered_scanActive (s : State) (st : Status) (v : Nat) (d : Bytes) :
    (s.answered st v d).scanActive = s.scanActive := rfl

/-- 42_flags.md R102. -/
theorem exec_setFlag (r : PReg) (v : Bool) (idx : BitVec 3) (s : State) : exec (.setFlag r v idx) s = .next
    ((s.writePreg r { s.preg r with flags := setFlagBit (s.preg r).flags idx v }).answered .ok 0 []) := by
  rw [exec, execSetFlag, respondOk_eq_answered]

/-- 42_flags.md R103: the answer is the flag, and the state is otherwise as it was. -/
theorem exec_getFlag (r : PReg) (idx : BitVec 3) (s : State) :
    exec (.getFlag r idx) s = .next (s.answered .ok (bitVal (flagBit (s.preg r).flags idx)) []) := by
  rw [exec, execGetFlag, respond_eq_answered]

/-! ### The statements -/

/-- Settles O40: reading the flag byte written by SET_FLAG gives the value at the same flag and the old bit at another. -/
theorem flagIndependence : Obligations.FlagIndependence := by
  unfold Obligations.FlagIndependence
  intro s r v idx
  refine ⟨_, exec_setFlag r v idx s, ?_, fun j hj => ⟨_, exec_getFlag r j s, ?_⟩, ?_, ?_, ?_⟩
  · rw [exec_getFlag, State.answered_preg, State.writePreg_preg, flagBit_setFlagBit_same, bitVal]
  · rw [exec_getFlag, State.answered_preg, State.writePreg_preg, flagBit_setFlagBit_of_ne _ hj]
  · rw [State.answered_preg, State.writePreg_preg]
  · rw [State.answered_preg, State.writePreg_preg_ne s r.other_ne]
  · rw [State.answered_scanActive, State.writePreg_scanActive]

/-- Settles O38: the flag byte written is the model's, whose bits are known one by one. -/
theorem setFlagWritesOneBit : Obligations.SetFlagWritesOneBit := by
  unfold Obligations.SetFlagWritesOneBit
  refine ⟨encode_setFlag (by decide), encode_setFlag (by decide), fun s v idx => ⟨?_, ?_⟩⟩
  · exact ⟨_, exec_setFlag .p0 v idx s, fun _ => setFlagBit_getLsbD s.p0.flags idx v⟩
  · exact ⟨_, exec_setFlag .p1 v idx s, fun _ => setFlagBit_getLsbD s.p1.flags idx v⟩

/-- Settles O39: the answer is read from the register as it is, whatever the format. -/
theorem getFlagReadsOneBit : Obligations.GetFlagReadsOneBit := by
  unfold Obligations.GetFlagReadsOneBit
  exact ⟨encode_getFlag (by decide), encode_getFlag (by decide), fun s r idx => exec_getFlag r idx s⟩

end Sys2Proof.Machine
end

section
/-! SUPPORT. Proofs about grouped extraction (43_group.md): what XBEGIN, XNEXT and XSTAT do, which commands end a scan, the
extracted sequence and its bounds, the scan on the machine against it, and a scan rebuilt. -/

namespace Sys2Proof.Machine

/-! ### XBEGIN, XNEXT and XSTAT -/

/-- XBEGIN's condition: STRUCTURED format and the GROUP flag of `P[0]` (43_group.md R107). -/
def Block.startsScan (b : Block) : Bool := b.cfgFmt == .structured && b.p0.isGroup

theorem Block.startsScan_iff (b : Block) :
    b.startsScan = true ↔ b.cfgFmt = .structured ∧ b.p0.isGroup = true := by
  rw [startsScan, Bool.and_eq_true, beq_iff_eq]

/-- What XBEGIN leaves (43_group.md R107). -/
def State.begun (s : State) : State :=
  { s with scanOff := 0#11, scanActive := s.startsScan }.answered .ok (bitVal s.startsScan) []

/-- The payload length of the sub-packet that XNEXT yields, if it yields one (43_group.md R108). -/
def Block.nextSub (b : Block) : Option Nat :=
  if b.scanActive then subLenAt b.p0.pay b.scanOff.toNat else none

/-- What XNEXT leaves when it yields the sub-packet of `sl` payload bytes at SCAN_OFF (43_group.md R108). -/
def State.yielded (s : State) (sl : Nat) : State :=
  { s with p1 := packetAt s.p0.pay s.scanOff.toNat sl,
           scanOff := BitVec.ofNat 11 (s.scanOff.toNat + 20 + sl) }.answered .ok s.scanOff.toNat
    (slice s.p0.pay s.scanOff.toNat (s.scanOff.toNat + 20 + sl))

/-- What XNEXT leaves when it yields nothing: END is answered and no scan is active (43_group.md R108). -/
def State.ended (s : State) : State := s.endScan.answered .scanEnd 0 []

section
variable (s : State) (sl : Nat)

@[simp] theorem State.begun_p0 : s.begun.p0 = s.p0 := rfl

@[simp] theorem State.yielded_p0 : (s.yielded sl).p0 = s.p0 := rfl
@[simp] theorem State.yielded_p1 : (s.yielded sl).p1 = packetAt s.p0.pay s.scanOff.toNat sl := rfl
@[simp] theorem State.yielded_scanActive : (s.yielded sl).scanActive = s.scanActive := rfl
@[simp] theorem State.yielded_lastStatus : (s.yielded sl).lastStatus = some .ok := State.answered_lastStatus _ _ _ _

@[simp] theorem State.ended_lastStatus : s.ended.lastStatus = some .scanEnd := State.answered_lastStatus _ _ _ _

end

/-- To end a scan when none is active changes nothing. -/
theorem State.endScan_of_inactive {s : State} (h : s.scanActive = false) : s.endScan = s := by
  rw [endScan, ← h]

theorem Block.nextSub_eq_some {b : Block} {sl : Nat} :
    b.nextSub = some sl ↔ b.scanActive = true ∧ subLenAt b.p0.pay b.scanOff.toNat = some sl := by
  rw [nextSub, Option.ite_none_right_eq_some]

/-- A sub-packet that XNEXT yields ends within the payload (43_group.md R111). -/
theorem Block.nextSub_end_le {b : Block} {sl : Nat} (h : b.nextSub = some sl) :
    b.scanOff.toNat + 20 + sl ≤ b.p0.pay.length :=
  (subLenAt_some.1 (nextSub_eq_some.1 h).2).1

theorem Block.nextSub_of_active {b : Block} (h : b.scanActive = true) :
    b.nextSub = subLenAt b.p0.pay b.scanOff.toNat := if_pos h

theorem Block.nextSub_of_inactive {b : Block} (h : b.scanActive = false) : b.nextSub = none := by
  rw [nextSub, h, if_neg Bool.false_ne_true]

/-- 43_group.md R107. -/
theorem exec_xbegin (s : State) : exec .xbegin s = .next s.begun := rfl

/-- 43_group.md R108: without a next sub-packet the answer is END, whether or not a scan was active. -/
theorem exec_xnext_of_none {s : State} (h : s.nextSub = none) : exec .xnext s = .next s.ended := by
  rw [exec, execXnext]
  split
  · next hactive =>
    rw [Block.nextSub_of_active hactive] at h
    simp only [h]
    rfl
  · next hinactive =>
    rw [State.ended, State.endScan_of_inactive (Bool.eq_false_iff.2 hinactive)]
    rfl

/-- 43_group.md R108. -/
theorem exec_xnext_of_some {s : State} {sl : Nat} (h : s.nextSub = some sl) :
    exec .xnext s = .next (s.yielded sl) := by
  obtain ⟨hactive, hsub⟩ := Block.nextSub_eq_some.1 h
  rw [exec, execXnext, if_pos hactive]
  simp only [hsub]
  rfl

/-- Everything XNEXT can leave. -/
theorem exec_xnext_cases {s t : State} (h : exec .xnext s = .next t) :
    (s.nextSub = none ∧ t = s.ended) ∨ ∃ sl, s.nextSub = some sl ∧ t = s.yielded sl := by
  cases hsub : s.nextSub with
  | none => exact .inl ⟨rfl, Host.Outcome.next.inj (h.symm.trans (exec_xnext_of_none hsub))⟩
  | some sl => exact .inr ⟨sl, rfl, Host.Outcome.next.inj (h.symm.trans (exec_xnext_of_some hsub))⟩

/-- The one response that `answered` adds. -/
theorem State.eq_of_answered_responses {s u : State} {st : Status} {v : Nat} {d : Bytes} {x : Response}
    (hu : u.responses = s.responses) (hx : (u.answered st v d).responses = s.responses ++ [x]) :
    x = { status := st, rval := BitVec.ofNat 32 v, dout := d } := by
  simpa [answered, hu, eq_comm] using hx

/-- XNEXT answers OK exactly by yielding. -/
theorem exec_xnext_of_ok {s t : State} {x : Response} (h : exec .xnext s = .next t)
    (hx : t.responses = s.responses ++ [x]) (hok : x.status = .ok) :
    ∃ sl, s.nextSub = some sl ∧ t = s.yielded sl := by
  obtain ⟨-, rfl⟩ | hyield := exec_xnext_cases h
  · obtain rfl := State.eq_of_answered_responses rfl hx
    cases hok
  · exact hyield

/-- The end of a whole sub-packet is within the payload, so 11 bits hold it (43_group.md R111; log 9). -/
theorem State.yielded_scanOff_toNat {s : State} {sl : Nat} (hp : s.p0.wf) (h : s.nextSub = some sl) :
    (s.yielded sl).scanOff.toNat = s.scanOff.toNat + 20 + sl := by
  have hend := Block.nextSub_end_le h
  have hpay : s.p0.pay.length ≤ 1024 := hp
  exact (BitVec.toNat_ofNat _ _).trans (Nat.mod_eq_of_lt (by omega))

/-- 43_group.md R109: SCAN_OFF stands above the bit SCAN_ACTIVE. -/
theorem exec_xstat (s : State) :
    exec .xstat s = .next (s.answered .ok (s.scanOff.toNat * 2 + s.scanActive.toNat) []) := by
  have hbit : bitVal s.scanActive = s.scanActive.toNat := by cases s.scanActive <;> rfl
  have hvalue : bitVal s.scanActive ||| s.scanOff.toNat <<< 1 = s.scanOff.toNat * 2 + s.scanActive.toNat := by
    rw [Nat.or_comm, hbit, shiftLeft_or_eq_add (k := 1) _ s.scanActive.toNat_lt, pow_one]
  rw [exec, execXstat, respond_eq_answered, hvalue]

/-- The bytes of a sub-packet of `l` payload bytes, as a slice from its offset on. -/
theorem slice_sub (b : Bytes) (o l : Nat) : slice b o (o + 20 + l) = (b.drop o).take (20 + l) := by
  rw [slice_eq_take_drop, Nat.add_assoc, Nat.add_sub_cancel_left]

/-- The packet at an offset, with its slices as 43_group.md R108 writes them. -/
theorem packetAt_eq (b : Bytes) (o l : Nat) : packetAt b o l =
    { valid := true, src := fit8 ((b.drop o).take 8), dst := fit8 ((b.drop (o + 8)).take 8),
      port := b.getD (o + 16) 0, flags := b.getD (o + 17) 0, pay := (b.drop (o + 20)).take l } := by
  rw [packetAt, slice_eq_take_drop, slice_eq_take_drop, slice_eq_take_drop, Nat.add_sub_cancel_left,
    Nat.add_sub_cancel_left, show o + 16 - (o + 8) = 8 by omega]
  rfl

/-! ### The commands that end a scan -/

/-- SCAN_OFF is kept, and SCAN_ACTIVE is cleared where `ends` holds and kept where it does not (43_group.md R106). -/
def CursorAfter (ends : Prop) (s t : State) : Prop :=
  t.scanOff = s.scanOff ∧ (ends → t.scanActive = false) ∧ (¬ends → t.scanActive = s.scanActive)

theorem cursorAfter_of_kept {ends : Prop} {s t : State} (h : ¬ends) (hoff : t.scanOff = s.scanOff)
    (hactive : t.scanActive = s.scanActive) : CursorAfter ends s t :=
  ⟨hoff, fun he => absurd he h, fun _ => hactive⟩

/-- A write to a packet register ends the scan when the register is `P[0]`. -/
theorem cursorAfter_of_writePreg {ends : Prop} {s t : State} {r : PReg} {q : Packet} {st : Status} {v : Nat} {d : Bytes}
    (h : respond (s.writePreg r q) st v d = .next t) (hends : ends ↔ r = .p0) : CursorAfter ends s t := by
  obtain rfl := respond_next h
  refine ⟨s.writePreg_scanOff r q, fun he => ?_, fun hn => ?_⟩
  · exact (s.writePreg_scanActive r q).trans (if_pos (hends.1 he))
  · exact (s.writePreg_scanActive r q).trans (if_neg (mt hends.2 hn))

/-- A command `i` that answered the status `st` ends a scan: it is one of those listed, or RX into `P[0]` that delivered
(43_group.md R106). -/
def EndsScanBy (i : Instr) (st : Status) : Prop :=
  i.endsScan = true ∨ ((∃ v, i = .rx .p0 v) ∧ (st = .ok ∨ st = .empty))

theorem endsScanBy_rx_iff (r : PReg) (v : Bool) (st : Status) :
    EndsScanBy (.rx r v) st ↔ r = .p0 ∧ (st = .ok ∨ st = .empty) := by
  simp [EndsScanBy, Instr.endsScan]

theorem respond_status {s u t : State} {st : Status} {v : Nat} {d : Bytes} {x : Response}
    (h : respond u st v d = .next t) (hu : u.responses = s.responses) (hx : t.responses = s.responses ++ [x]) :
    x.status = st := by
  obtain rfl := Host.Outcome.next.inj h
  obtain rfl := State.eq_of_answered_responses hu hx
  rfl

/-- RX ends a scan when it writes `P[0]`, which it does when it delivers. -/
theorem execRx_cursorAfter {r : PReg} {v : Bool} {s t : State} {x : Response} (h : execRx r v s = .next t)
    (hx : t.responses = s.responses ++ [x]) : CursorAfter (EndsScanBy (.rx r v) x.status) s t := by
  have hkept {st : Status} {w : Nat} (hr : respond s st w [] = .next t) (hst : ¬(st = .ok ∨ st = .empty)) :
      CursorAfter (EndsScanBy (.rx r v) x.status) s t := by
    rw [respond_status hr rfl hx, endsScanBy_rx_iff]
    obtain rfl := respond_next hr
    exact cursorAfter_of_kept (fun he => hst he.2) rfl rfl
  have hwritten {st : Status} {w : Nat} (hr : respond (s.writePreg r (parse s.din)) st w [] = .next t)
      (hst : st = .ok ∨ st = .empty) : CursorAfter (EndsScanBy (.rx r v) x.status) s t := by
    rw [respond_status hr (by simp) hx, endsScanBy_rx_iff]
    exact cursorAfter_of_writePreg hr (and_iff_left hst)
  simp only [execRx] at h
  split at h
  · exact hkept h (by decide)
  · split at h
    · exact hkept h (by decide)
    · split at h
      · exact hwritten h (.inl rfl)
      · exact hwritten h (.inr rfl)

/-- 43_group.md R106, over every command but the two that move the cursor themselves. -/
theorem exec_cursorAfter {i : Instr} {s t : State} {x : Response} (hb : i ≠ .xbegin) (hn : i ≠ .xnext)
    (h : exec i s = .next t) (hx : t.responses = s.responses ++ [x]) :
    CursorAfter (EndsScanBy i x.status) s t := by
  cases i with
  | new r | make r | setSrc r | setDst r | setPort r | setFlags r | setPayload r | setFlag r v idx =>
    exact cursorAfter_of_writePreg h (by simp [EndsScanBy, Instr.endsScan])
  | decode r =>
    obtain ⟨st, v, d, hw⟩ := writesPreg_decode r s
    exact cursorAfter_of_writePreg (hw.symm.trans h) (by simp [EndsScanBy, Instr.endsScan])
  | rx r v => exact execRx_cursorAfter h hx
  | cfgSetFmt v =>
    obtain rfl := respond_next h
    exact ⟨rfl, fun _ => rfl, fun hne => absurd (.inl rfl) hne⟩
  | cfgSetAddr | cfgSetPort =>
    obtain rfl := respond_next h
    exact cursorAfter_of_kept (by simp [EndsScanBy, Instr.endsScan]) rfl rfl
  | xbegin => exact absurd rfl hb
  | xnext => exact absurd rfl hn
  | nop | cfgGetAddr | cfgGetPort | cfgGetFmt | xstat | getSrc r | getDst r | getPort r | getFlags r | getLen r
  | getPayload r | getFlag r idx | getValid r | encode r | matchFilter r =>
    have hkept : t.toBlock = s.toBlock := exec_readOnly_toBlock rfl h
    exact cursorAfter_of_kept (by simp [EndsScanBy, Instr.endsScan]) (congrArg Block.scanOff hkept)
      (congrArg Block.scanActive hkept)

/-! ### The extracted sequence -/

section
variable {p : Bytes} {o : Nat}

theorem extractFrom_of_none (h : subLenAt p o = none) (n : Nat) : extractFrom p n o = [] := by
  cases n with
  | zero => rfl
  | succ n => simp only [extractFrom, h]

theorem extractFrom_succ_of_some {sl : Nat} (h : subLenAt p o = some sl) (n : Nat) :
    extractFrom p (n + 1) o = packetAt p o sl :: extractFrom p n (o + 20 + sl) := by
  simp only [extractFrom, h]

/-- Fewer than 20 bytes hold no header (43_group.md R108). -/
theorem subLenAt_of_short (h : p.length < o + 20) : subLenAt p o = none :=
  subLenAt_none.2 (.inr h)

/-- The loop's rounds do not matter once they are enough for 20 bytes each (43_group.md R111). -/
theorem extractFrom_eq_extractFrom {n m : Nat} (hn : p.length < o + 20 * (n + 1)) (hm : p.length < o + 20 * (m + 1)) :
    extractFrom p n o = extractFrom p m o := by
  induction n generalizing o m with
  | zero => rw [extractFrom_of_none (subLenAt_of_short (by omega)), extractFrom_of_none (subLenAt_of_short (by omega))]
  | succ n ih =>
    cases hsub : subLenAt p o with
    | none => rw [extractFrom_of_none hsub, extractFrom_of_none hsub]
    | some sl =>
      obtain ⟨hend, -⟩ := subLenAt_some.1 hsub
      cases m with
      | zero => omega
      | succ m =>
        rw [extractFrom_succ_of_some hsub, extractFrom_succ_of_some hsub, ih (m := m) (by omega) (by omega)]

theorem extractFrom_eq_extract {n : Nat} (hn : p.length < 20 * (n + 1)) : extractFrom p n 0 = extract p :=
  extractFrom_eq_extractFrom (by omega) (by omega)

/-- Every sub-packet takes at least 20 of the bytes left (43_group.md R111). -/
theorem extractFrom_length_le (n : Nat) : (extractFrom p n o).length ≤ (p.length - o) / 20 := by
  induction n generalizing o with
  | zero => exact Nat.zero_le _
  | succ n ih =>
    cases hsub : subLenAt p o with
    | none => rw [extractFrom_of_none hsub]; exact Nat.zero_le _
    | some sl =>
      obtain ⟨hend, -⟩ := subLenAt_some.1 hsub
      have hrest := ih (o := o + 20 + sl)
      rw [extractFrom_succ_of_some hsub, List.length_cons]
      omega

/-- What is extracted is valid, and stands with its header within the payload (43_group.md R110). -/
theorem extractFrom_mem {n : Nat} {q : Packet} (hq : q ∈ extractFrom p n o) :
    q.valid = true ∧ q.pay.length + 20 ≤ p.length := by
  induction n generalizing o with
  | zero => cases hq
  | succ n ih =>
    cases hsub : subLenAt p o with
    | none => rw [extractFrom_of_none hsub] at hq; cases hq
    | some sl =>
      obtain ⟨hend, -⟩ := subLenAt_some.1 hsub
      rw [extractFrom_succ_of_some hsub] at hq
      obtain rfl | hrest := List.mem_cons.1 hq
      · refine ⟨rfl, ?_⟩
        simp only [packetAt, slice_length]
        omega
      · exact ih hrest

end

/-! ### Concatenated frames -/

/-- A frame is found whole, whatever stands before and behind it. -/
theorem subLenAt_frame (a c : Bytes) {q : Packet} (hq : q.wf) :
    subLenAt (a ++ (frame q ++ c)) a.length = some q.len := by
  have hlen : q.len ≤ 1024 := hq
  refine subLenAt_some.2 ⟨?_, bigEndian_frame a c (by omega)⟩
  rw [List.length_append, List.length_append, frame_length]
  omega

/-- A frame cut short at the end of the payload is not found: its header is cut, or it declares more than is left
(43_group.md R112). -/
theorem subLenAt_frame_take (a : Bytes) {q : Packet} {k : Nat} (hq : q.wf) (hk : k < (frame q).length) :
    subLenAt (a ++ (frame q).take k) a.length = none := by
  have hlen : (a ++ (frame q).take k).length = a.length + k := by
    rw [List.length_append, List.length_take, Nat.min_eq_left hk.le]
  rw [frame_length] at hk
  obtain hheader | hheader := Nat.lt_or_ge k 20
  · exact subLenAt_of_short (by omega)
  · have hwf : q.len ≤ 1024 := hq
    have hframe : bigEndian (frame q) 18 = q.len := by
      simpa using bigEndian_frame [] [] (q := q) (by omega)
    have hdeclared : bigEndian (a ++ (frame q).take k) (a.length + 18) = q.len := by
      rw [bigEndian_append_right _ _ _ (by omega), Nat.add_sub_cancel_left, bigEndian_take _ _ _ (by omega), hframe]
    exact subLenAt_none.2 (.inl (by omega))

/-- The frames of valid packets are extracted as those packets; what stands behind them is extracted next. -/
theorem extractFrom_frames (a : Bytes) {qs : List Packet} (rest : Bytes) (n : Nat)
    (hqs : ∀ q ∈ qs, q.valid = true ∧ q.wf) :
    extractFrom (a ++ (qs.flatMap frame ++ rest)) (qs.length + n) a.length =
      qs ++ extractFrom (a ++ (qs.flatMap frame ++ rest)) n (a ++ qs.flatMap frame).length := by
  induction qs generalizing a with
  | nil => simp
  | cons q qs ih =>
    obtain ⟨⟨hvalid, hwf⟩, hrest⟩ := List.forall_mem_cons.1 hqs
    have hq : { q with valid := true } = q := by rw [← hvalid]
    have hnext : a.length + 20 + q.len = (a ++ frame q).length := by
      rw [List.length_append, frame_length, Nat.add_assoc]
    have hih := ih (a ++ frame q) hrest
    simp only [List.append_assoc] at hih
    rw [List.flatMap_cons, List.append_assoc, List.length_cons, Nat.add_right_comm,
      extractFrom_succ_of_some (subLenAt_frame a _ hwf), packetAt_frame, hq, hnext, hih, List.cons_append]

/-- 43_group.md R112: the grouping round trip, as a fact about `extract`. -/
theorem extract_frames {qs : List Packet} {q : Packet} {k : Nat} (hqs : ∀ a ∈ qs, a.valid = true ∧ a.wf) (hq : q.wf)
    (hk : k < (frame q).length) : extract (qs.flatMap frame ++ (frame q).take k) = qs := by
  have hframes := extractFrom_frames [] ((frame q).take k) (qs.flatMap frame ++ (frame q).take k).length hqs
  have hrounds : extractFrom (qs.flatMap frame ++ (frame q).take k)
      (qs.length + (qs.flatMap frame ++ (frame q).take k).length) 0 = extract (qs.flatMap frame ++ (frame q).take k) :=
    extractFrom_eq_extract (by omega)
  simp only [List.nil_append, List.length_nil] at hframes
  rw [← hrounds, hframes, extractFrom_of_none (subLenAt_frame_take _ hq hk), List.append_nil]

/-! ### The scan on the machine -/

/-- A command without operands at the port: what it leaves on the channels is cleared. -/
theorem runCommand_without_operands {i : Instr} {s t u : State}
    (h : exec i (s.accept (assemble { instr := i })) = .next t) (hu : t.retire = u.retire) :
    runCommand (assemble { instr := i }) s = .next u.retire :=
  hu ▸ runCommand_of_exec (Nat.zero_le _) h

theorem runCommand_xbegin (s : State) : runCommand (assemble { instr := .xbegin }) s = .next s.begun.retire :=
  runCommand_without_operands (exec_xbegin _) rfl

section
variable {s : State}

theorem runCommand_xnext_of_none (h : s.nextSub = none) :
    runCommand (assemble { instr := .xnext }) s = .next s.ended.retire :=
  runCommand_without_operands (exec_xnext_of_none (s := s.accept _) h) rfl

theorem runCommand_xnext_of_some {sl : Nat} (h : s.nextSub = some sl) :
    runCommand (assemble { instr := .xnext }) s = .next (s.yielded sl).retire :=
  runCommand_without_operands (exec_xnext_of_some (s := s.accept _) h) rfl

theorem xnextRun_succ_of_none (h : s.nextSub = none) (n : Nat) : xnextRun (n + 1) s = ([], s.ended.retire) := by
  simp [xnextRun, runCommand_xnext_of_none h]

theorem xnextRun_succ_of_some {sl : Nat} (h : s.nextSub = some sl) (n : Nat) : xnextRun (n + 1) s =
    (packetAt s.p0.pay s.scanOff.toNat sl :: (xnextRun n (s.yielded sl).retire).1,
      (xnextRun n (s.yielded sl).retire).2) := by
  simp [xnextRun, runCommand_xnext_of_some h]

/-- Each round of XNEXT is a round of `extract`'s loop at SCAN_OFF (43_group.md R110). -/
theorem xnextRun_of_active (hp : s.p0.wf) (hactive : s.scanActive = true) (n : Nat) :
    (xnextRun n s).1 = extractFrom s.p0.pay n s.scanOff.toNat := by
  induction n generalizing s with
  | zero => rfl
  | succ n ih =>
    have hnext := Block.nextSub_of_active hactive
    cases hsub : subLenAt s.p0.pay s.scanOff.toNat with
    | none => rw [xnextRun_succ_of_none (hnext.trans hsub), extractFrom_of_none hsub]
    | some sl =>
      have hrest := ih (s := (s.yielded sl).retire) hp hactive
      have hoff : (s.yielded sl).retire.scanOff.toNat = s.scanOff.toNat + 20 + sl :=
        State.yielded_scanOff_toNat hp (hnext.trans hsub)
      rw [hoff] at hrest
      rw [xnextRun_succ_of_some (hnext.trans hsub), extractFrom_succ_of_some hsub, hrest]
      rfl

/-- A scan is over in the state `t`: END is the last answer, no scan is active, and `P[0]` is the packet `q`. -/
structure ScanOver (q : Packet) (t : State) : Prop where
  lastStatus : t.lastStatus = some .scanEnd
  inactive : t.scanActive = false
  p0 : t.p0 = q

theorem State.ended_scanOver (s : State) : ScanOver s.p0 s.ended.retire :=
  ⟨s.ended_lastStatus, rfl, rfl⟩

/-- Enough rounds of XNEXT for 20 bytes each, and one more, reach END (43_group.md R111). -/
theorem xnextRun_scanOver {n : Nat} (hp : s.p0.wf) (hn : s.p0.pay.length < s.scanOff.toNat + 20 * (n + 1)) :
    ScanOver s.p0 (xnextRun (n + 1) s).2 := by
  induction n generalizing s with
  | zero =>
    cases hsub : s.nextSub with
    | none => rw [xnextRun_succ_of_none hsub]; exact s.ended_scanOver
    | some sl =>
      have hend := Block.nextSub_end_le hsub
      omega
  | succ n ih =>
    cases hsub : s.nextSub with
    | none => rw [xnextRun_succ_of_none hsub]; exact s.ended_scanOver
    | some sl =>
      have hoff : (s.yielded sl).retire.scanOff.toNat = s.scanOff.toNat + 20 + sl :=
        State.yielded_scanOff_toNat hp hsub
      rw [xnextRun_succ_of_some hsub]
      refine ih (s := (s.yielded sl).retire) hp ?_
      rw [hoff, State.retire_toBlock, State.yielded_p0]
      omega

end

theorem extractGroup_eq (s : State) : extractGroup s = xnextRun 52 s.begun.retire := by
  simp only [extractGroup, runCommand_xbegin]

/-- The machine's scan is the function `extract`, when a scan starts (43_group.md R110). -/
theorem extractGroup_fst {s : State} (hp : s.p0.wf) :
    (extractGroup s).1 = if s.startsScan then extract s.p0.pay else [] := by
  have hlen : s.p0.pay.length ≤ 1024 := hp
  rw [extractGroup_eq]
  split
  · next hstarts =>
    have hrun : (xnextRun 52 s.begun.retire).1 = extractFrom s.p0.pay 52 0 :=
      xnextRun_of_active (s := s.begun.retire) hp hstarts 52
    rw [hrun, extractFrom_eq_extract (by omega)]
  · next hstarts =>
    rw [xnextRun_succ_of_none (Block.nextSub_of_inactive (Bool.eq_false_iff.2 hstarts))]

theorem extractGroup_scanOver {s : State} (hp : s.p0.wf) : ScanOver s.p0 (extractGroup s).2 := by
  have hlen : s.p0.pay.length ≤ 1024 := hp
  rw [extractGroup_eq]
  refine xnextRun_scanOver (s := s.begun.retire) hp ?_
  rw [State.retire_toBlock, State.begun_p0]
  omega

/-! ### A scan rebuilt -/

/-- Two blocks on which XNEXT does the same: the payload scanned and the cursor agree. -/
structure ScanAlike (b b' : Block) : Prop where
  pay : b'.p0.pay = b.p0.pay
  active : b'.scanActive = b.scanActive
  off : b'.scanOff = b.scanOff

/-- From `s` to `t` and from `s'` to `t'` the same responses `rs` were given, all by XNEXT: the cursors stay alike, `P[0]`
is kept, and `P[1]` is the same after an OK and kept when there was none (43_group.md R113). -/
structure Replays (rs : List Response) (s s' t t' : State) : Prop where
  alike : ScanAlike t.toBlock t'.toBlock
  p0 : t'.p0 = s'.p0
  responses : t.responses = s.responses ++ rs
  responses' : t'.responses = s'.responses ++ rs
  p1_of_ok : (∃ y ∈ rs, y.status = .ok) → t'.p1 = t.p1
  p1_of_no_ok : (∀ y ∈ rs, y.status ≠ .ok) → t.p1 = s.p1 ∧ t'.p1 = s'.p1

section
variable {s s' u u' t t' : State}

theorem ScanAlike.nextSub_eq {b b' : Block} (h : ScanAlike b b') : b'.nextSub = b.nextSub := by
  rw [Block.nextSub, Block.nextSub, h.pay, h.active, h.off]

theorem ScanAlike.replays_nil (h : ScanAlike s.toBlock s'.toBlock) : Replays [] s s' s s' :=
  ⟨h, rfl, (List.append_nil _).symm, (List.append_nil _).symm, fun ⟨_, hy, _⟩ => absurd hy List.not_mem_nil,
    fun _ => ⟨rfl, rfl⟩⟩

theorem Replays.cons {y : Response} {rs : List Response} (h : Replays [y] s s' u u') (hrs : Replays rs u u' t t') :
    Replays (y :: rs) s s' t t' := by
  refine ⟨hrs.alike, hrs.p0.trans h.p0, ?_, ?_, fun hok => ?_, fun hno => ?_⟩
  · rw [hrs.responses, h.responses, List.append_assoc, List.singleton_append]
  · rw [hrs.responses', h.responses', List.append_assoc, List.singleton_append]
  · by_cases hlater : ∃ z ∈ rs, z.status = .ok
    · exact hrs.p1_of_ok hlater
    · obtain ⟨ht, ht'⟩ := hrs.p1_of_no_ok fun z hz hzok => hlater ⟨z, hz, hzok⟩
      have hy : y.status = .ok := by
        obtain ⟨z, hz, hzok⟩ := hok
        obtain rfl | hz := List.mem_cons.1 hz
        · exact hzok
        · exact absurd ⟨z, hz, hzok⟩ hlater
      rw [ht, ht', h.p1_of_ok ⟨y, List.mem_singleton_self y, hy⟩]
  · obtain ⟨hy, hlater⟩ := List.forall_mem_cons.1 hno
    obtain ⟨hu, hu'⟩ := h.p1_of_no_ok (List.forall_mem_singleton.2 hy)
    obtain ⟨ht, ht'⟩ := hrs.p1_of_no_ok hlater
    exact ⟨ht.trans hu, ht'.trans hu'⟩

/-- END on both sides leaves both `P[1]` as they were. -/
theorem ScanAlike.replays_ended (h : ScanAlike s.toBlock s'.toBlock) :
    Replays [⟨.scanEnd, 0, []⟩] s s' s.ended.retire s'.ended.retire :=
  ⟨⟨h.pay, rfl, h.off⟩, rfl, rfl, rfl, by simp, fun _ => ⟨rfl, rfl⟩⟩

/-- A sub-packet on both sides is the same one. -/
theorem ScanAlike.replays_yielded (h : ScanAlike s.toBlock s'.toBlock) (sl : Nat) :
    ∃ y, Replays [y] s s' (s.yielded sl).retire (s'.yielded sl).retire := by
  refine ⟨⟨.ok, BitVec.ofNat 32 s.scanOff.toNat, slice s.p0.pay s.scanOff.toNat (s.scanOff.toNat + 20 + sl)⟩,
    ⟨h.pay, h.active, ?_⟩, rfl, rfl, ?_, fun _ => ?_, by simp⟩
  · simp only [State.yielded, State.answered, State.retire, h.off]
  · simp only [State.yielded, State.answered, State.retire, h.pay, h.off]
  · simp only [State.retire_toBlock, State.yielded_p1, h.pay, h.off]

theorem ScanAlike.replays_xnext (h : ScanAlike s.toBlock s'.toBlock) :
    ∃ t t' y, runCommand (assemble { instr := .xnext }) s = .next t ∧
      runCommand (assemble { instr := .xnext }) s' = .next t' ∧ Replays [y] s s' t t' := by
  cases hsub : s.nextSub with
  | none =>
    exact ⟨_, _, _, runCommand_xnext_of_none hsub, runCommand_xnext_of_none (h.nextSub_eq.trans hsub), h.replays_ended⟩
  | some sl =>
    obtain ⟨y, hy⟩ := h.replays_yielded sl
    exact ⟨_, _, y, runCommand_xnext_of_some hsub, runCommand_xnext_of_some (h.nextSub_eq.trans hsub), hy⟩

theorem ScanAlike.replays_xnexts (h : ScanAlike s.toBlock s'.toBlock) (m : Nat) :
    ∃ t t' rs, runCommands (List.replicate m (assemble { instr := .xnext })) s = .next t ∧
      runCommands (List.replicate m (assemble { instr := .xnext })) s' = .next t' ∧
      rs.length = m ∧ Replays rs s s' t t' := by
  induction m generalizing s s' with
  | zero => exact ⟨s, s', [], rfl, rfl, rfl, h.replays_nil⟩
  | succ m ih =>
    obtain ⟨u, u', y, hu, hu', hy⟩ := h.replays_xnext
    obtain ⟨t, t', rs, ht, ht', hlen, hrs⟩ := ih hy.alike
    rw [List.replicate_succ, runCommands_cons_of_next hu, runCommands_cons_of_next hu']
    exact ⟨t, t', y :: rs, ht, ht', congrArg (· + 1) hlen, hy.cons hrs⟩

end

/-- XBEGIN reads the format and the flags, and starts at offset 0 (43_group.md R107). -/
theorem startsScan_congr {b b' : Block} (hfmt : b'.cfgFmt = b.cfgFmt) (hflags : b'.p0.flags = b.p0.flags) :
    b'.startsScan = b.startsScan := by
  rw [Block.startsScan, Block.startsScan, Packet.isGroup, Packet.isGroup, hfmt, hflags]

/-- XBEGIN and `m` XNEXTs (43_group.md R113). -/
def scanCommands (m : Nat) : List Command :=
  assemble { instr := .xbegin } :: List.replicate m (assemble { instr := .xnext })

/-- The same format, flags and payload are the same scan from its beginning. -/
theorem replays_scanCommands {s s' : State} (hfmt : s'.cfgFmt = s.cfgFmt) (hflags : s'.p0.flags = s.p0.flags)
    (hpay : s'.p0.pay = s.p0.pay) (m : Nat) :
    ∃ t t' b rs, runCommands (scanCommands m) s = .next t ∧ runCommands (scanCommands m) s' = .next t' ∧
      rs.length = m ∧ b.status = .ok ∧ t.responses = s.responses ++ b :: rs ∧ t'.responses = s'.responses ++ b :: rs ∧
      Replays rs s.begun.retire s'.begun.retire t t' := by
  have hstarts : s'.startsScan = s.startsScan := startsScan_congr hfmt hflags
  have halike : ScanAlike s.begun.retire.toBlock s'.begun.retire.toBlock := ⟨hpay, hstarts, rfl⟩
  obtain ⟨t, t', rs, ht, ht', hlen, hrs⟩ := halike.replays_xnexts m
  refine ⟨t, t', ⟨.ok, BitVec.ofNat 32 (bitVal s.startsScan), []⟩, rs, ?_, ?_, hlen, rfl, ?_, ?_, hrs⟩
  · rw [scanCommands, runCommands_cons_of_next (runCommand_xbegin s), ht]
  · rw [scanCommands, runCommands_cons_of_next (runCommand_xbegin s'), ht']
  · rw [hrs.responses, List.append_cons]
    rfl
  · rw [hrs.responses', List.append_cons, ← hstarts]
    rfl

/-- DECODE of a packet's frame at the port, whole (40_codec.md R85, R87). -/
theorem runCommand_assemble_decode_frame (r : PReg) {q : Packet} (hq : q.wf) (s : State) :
    runCommand (assemble { instr := .decode r, din := some [.hex (frame q)] }) s =
      .next ((s.writePreg r { q with valid := true }).answered .ok q.len []).retire := by
  have hcommand : assemble { instr := .decode r, din := some [.hex (frame q)] } =
      ⟨encode (.decode r), 0, frame q⟩ := by
    simp [assemble, ByteTerm.bytes]
  have hdin : (frame q).length ≤ 65535 := (frame_length_le hq).trans (by decide)
  have hparse : parse (s.accept ⟨encode (.decode r), 0, frame q⟩).din = { q with valid := true } := parse_frame hq
  have hexec := exec_decode_of_valid (r := r) (congrArg Packet.valid hparse)
  rw [hparse] at hexec
  rw [hcommand, runCommand_of_exec hdin hexec]
  cases r <;> rfl

/-! ### The statements -/

/-- Settles O52: XBEGIN's condition decides between the whole of `extract` and nothing, and 52 XNEXTs reach END. -/
theorem scanYieldsExtract : Obligations.ScanYieldsExtract := by
  unfold Obligations.ScanYieldsExtract
  intro s hp
  obtain ⟨hlast, hinactive, hp0⟩ := extractGroup_scanOver hp
  refine ⟨?_, hlast, hinactive, hp0⟩
  simp only [extractGroup_fst hp, Block.startsScan_iff]

/-- Settles O54: the machine's scan of the payload is `extract`, which gives back the concatenated packets. -/
theorem groupRoundTrip : Obligations.GroupRoundTrip := by
  unfold Obligations.GroupRoundTrip
  intro s qs q k hfmt hgroup hqs hq hk hlen hpay
  refine ⟨?_, (extractGroup_scanOver hlen).lastStatus⟩
  rw [extractGroup_fst hlen, if_pos (s.startsScan_iff.2 ⟨hfmt, hgroup⟩), hpay, extract_frames hqs hq hk]

/-- Settles O55: after XBEGIN the two cursors are alike, and alike cursors answer every XNEXT alike. -/
theorem rebuiltScanReplays : Obligations.RebuiltScanReplays := by
  unfold Obligations.RebuiltScanReplays
  intro s s' m hp hfmt
  have hdecode := runCommand_assemble_decode_frame .p0 hp s'
  obtain ⟨t, t', b, rs, ht, ht', hlen, hb, hresponses, hresponses', hrs⟩ := replays_scanCommands (s := s)
    (s' := ((s'.writePreg .p0 { s.p0 with valid := true }).answered .ok s.p0.len []).retire) hfmt rfl rfl m
  refine ⟨t, t', b, rs, ⟨.ok, BitVec.ofNat 32 s.p0.len, []⟩, ht, ?_, hrs.p0, hrs.alike.active, hrs.alike.off, hlen,
    hresponses, ?_, rfl, hb, hrs.p1_of_ok, hrs.p1_of_no_ok⟩
  · exact (runCommands_cons_of_next hdecode).trans ht'
  · rw [hresponses', List.append_cons _ _ (b :: rs)]
    rfl

/-- Settles O49: `dout` is a slice that is the frame of the packet taken from it, so it parses back to that packet. -/
theorem xnextYieldsSubFrame : Obligations.XnextYieldsSubFrame := by
  unfold Obligations.XnextYieldsSubFrame
  intro s t x hinv h hx hok
  obtain ⟨sl, hnext, rfl⟩ := exec_xnext_of_ok h hx hok
  obtain rfl := State.eq_of_answered_responses rfl hx
  obtain ⟨-, hsub⟩ := Block.nextSub_eq_some.1 hnext
  obtain ⟨hend, hdeclared⟩ := subLenAt_some.1 hsub
  have hoff := State.yielded_scanOff_toNat hinv.block.pay0 hnext
  have hframe := frame_packetAt hend hdeclared
  have hparse := parse_frame (packetAt_wf hinv.block.pay0 s.scanOff.toNat sl)
  rw [hframe] at hparse
  have hpay : s.p0.pay.length ≤ 1024 := hinv.block.pay0
  have hrval : (BitVec.ofNat 32 s.scanOff.toNat).toNat = s.scanOff.toNat := by
    rw [BitVec.toNat_ofNat]
    omega
  have hlen : (slice s.p0.pay s.scanOff.toNat (s.scanOff.toNat + 20 + sl)).length = 20 + sl := by
    rw [slice_length]
    omega
  refine ⟨hframe.symm, hparse.symm, hrval, ?_, ?_, hoff.trans_le hend⟩
  · simp only [hrval]
    omega
  · dsimp only
    rw [hoff, hlen, Nat.add_assoc]

/-- Settles O51, from the cursor after each command; XNEXT that answers OK keeps SCAN_ACTIVE. -/
theorem scanEndedExactlyByListed : Obligations.ScanEndedExactlyByListed := by
  unfold Obligations.ScanEndedExactlyByListed
  refine ⟨fun i s t x hb hn => exec_cursorAfter hb hn, fun s t x h hx hok => ?_⟩
  obtain ⟨sl, -, rfl⟩ := exec_xnext_of_ok h hx hok
  exact s.yielded_scanActive sl

/-- Settles O53: each element and each round of the loop takes at least 20 bytes. -/
theorem extractBounds : Obligations.ExtractBounds := by
  unfold Obligations.ExtractBounds
  intro p
  have hlen : (extract p).length ≤ p.length / 20 := extractFrom_length_le p.length
  exact ⟨hlen, fun hp => by omega, fun q => extractFrom_mem, fun fuel hfuel => extractFrom_eq_extract (by omega)⟩

/-- Settles O47: the word is evaluated, and the two outcomes are the two values of XBEGIN's condition. -/
theorem xbeginStartsScan : Obligations.XbeginStartsScan := by
  unfold Obligations.XbeginStartsScan
  refine ⟨by decide, fun s => ?_⟩
  have hiff : (s.cfgFmt = .structured ∧ s.p0.flags.getLsbD 7 = true) ↔ s.startsScan = true := s.startsScan_iff.symm
  rw [exec_xbegin, State.begun]
  simp only [hiff]
  cases s.startsScan <;> rfl

/-- Settles O48, by the two tests of the sub-packet's bytes against the payload. -/
theorem xnextYieldsNext : Obligations.XnextYieldsNext := by
  unfold Obligations.XnextYieldsNext
  refine ⟨by decide, fun s => ?_⟩
  split
  · next hinactive =>
    rw [exec_xnext_of_none (Block.nextSub_of_inactive hinactive), State.ended, State.endScan_of_inactive hinactive]
  · next hactive =>
    have hnext := Block.nextSub_of_active ((Bool.not_eq_false _).mp hactive)
    change exec .xnext s = .next (if s.p0.pay.length < s.scanOff.toNat + 20 then _
      else if s.p0.pay.length < s.scanOff.toNat + 20 + bigEndian s.p0.pay (s.scanOff.toNat + 18) then _ else _)
    split
    · next hshort => exact exec_xnext_of_none (hnext.trans (subLenAt_of_short hshort))
    · split
      · next hlong => exact exec_xnext_of_none (hnext.trans (subLenAt_none.2 (.inl hlong)))
      · next hwhole =>
        rw [exec_xnext_of_some (hnext.trans (subLenAt_some.2 ⟨Nat.not_lt.1 hwhole, rfl⟩)), State.yielded, packetAt_eq,
          slice_sub]
        rfl

/-- Settles O50: the two fields are read off the sum `2 * SCAN_OFF + SCAN_ACTIVE`. -/
theorem xstatReportsCursor : Obligations.XstatReportsCursor := by
  unfold Obligations.XstatReportsCursor
  refine ⟨by decide, fun s => ⟨_, exec_xstat s, rfl, rfl, ?_, BitVec.eq_of_toNat_eq ?_, BitVec.eq_of_toNat_eq ?_⟩⟩
  · rw [BitVec.getLsbD_ofNat, Nat.testBit_zero, Nat.mul_add_mod_self_right]
    cases s.scanActive <;> rfl
  all_goals
    have hoff := s.scanOff.isLt
    have hactive := s.scanActive.toNat_lt
    simp only [BitVec.extractLsb'_toNat, BitVec.toNat_ofNat, BitVec.ofNat_eq_ofNat, Nat.shiftRight_eq_div_pow]
    omega

end Sys2Proof.Machine
end

section
/-! SUPPORT. Proofs about the endpoint (44_endpoint.md): trimmed addresses compared, the bits of `match`, control and
configuration, MAKE, RX, and the receive loops over it. -/

namespace Sys2Proof.Machine

/-! ### Trimmed addresses -/

/-- Padding gives back what trimming took away, so no byte of an address is lost (40_codec.md R79, R80). -/
theorem fit8_trimmed (a : Addr) : fit8 (trimmed a) = a := by
  have hle : trimlen a ≤ 8 := trimlen_le_eight a
  have htrimmed : trimmed a = a.bytes.take (trimlen a) := slice_zero a.bytes (trimlen a)
  have hlen : (trimmed a).length = trimlen a := by
    rw [htrimmed, List.length_take, a.length_bytes, Nat.min_eq_left hle]
  have hpad : List.replicate (8 - trimlen a) Config.padByte = a.bytes.drop (trimlen a) :=
    (List.eq_replicate_iff.2 ⟨by rw [List.length_drop, a.length_bytes], (trimlen_le_iff a _).1 le_rfl⟩).symm
  refine Addr.ext ?_
  calc (fit8 (trimmed a)).bytes
      = (trimmed a).take 8 ++ List.replicate (8 - min (trimmed a).length 8) Config.padByte := rfl
    _ = trimmed a ++ List.replicate (8 - trimlen a) Config.padByte := by
        rw [List.take_of_length_le (hlen.trans_le hle), hlen, Nat.min_eq_left hle]
    _ = a.bytes := by rw [hpad, htrimmed, List.take_append_drop]

theorem trimmed_injective : Function.Injective trimmed :=
  Function.LeftInverse.injective fit8_trimmed

/-! ### The bits of `match` -/

/-- The four summands of `match` do not overlap: each is one bit of the value (44_endpoint.md R122). -/
theorem filterBits_getLsbD : ∀ a t v : Bool,
    let m := BitVec.ofNat 4 (bitVal a + 2 * bitVal t + 4 * bitVal (a && t) + 8 * bitVal v)
    m.getLsbD 0 = a ∧ m.getLsbD 1 = t ∧ m.getLsbD 2 = (a && t) ∧ m.getLsbD 3 = v := by
  decide

theorem matchVal_getLsbD (b : Block) (q : Packet) :
    (matchVal b q).getLsbD 0 = (q.dst == b.cfgAddr) ∧ (matchVal b q).getLsbD 1 = (q.port == b.cfgPort) ∧
    (matchVal b q).getLsbD 2 = (q.dst == b.cfgAddr && q.port == b.cfgPort) ∧
    (matchVal b q).getLsbD 3 = q.valid :=
  filterBits_getLsbD _ _ _

/-- `deliver`, the bit that RX reads (44_endpoint.md R122). -/
theorem matchVal_deliver_iff (b : Block) (q : Packet) :
    (matchVal b q).getLsbD 2 = true ↔ q.dst = b.cfgAddr ∧ q.port = b.cfgPort := by
  obtain ⟨-, -, hdeliver, -⟩ := matchVal_getLsbD b q
  rw [hdeliver, Bool.and_eq_true, beq_iff_eq, beq_iff_eq]

/-! ### The words -/

/-- `v` is added to the word of a command's opcode and register (30_encoding.md R59). -/
theorem wordOfFields_set_v (op : BitVec 6) (r : PReg) (v : Bool) :
    wordOfFields { regFields op r with v := v } =
      wordOfFields (regFields op r) ||| (BitVec.ofBool v).setWidth 16 <<< 8 := by
  simp [wordOfFields, regFields, plainFields]

theorem encode_rx {r : PReg} {w : CmdWord} (hw : wordOfFields (regFields 0x1A r) = w) (v : Bool) :
    encode (.rx r v) = w ||| (BitVec.ofBool v).setWidth 16 <<< 8 :=
  hw ▸ wordOfFields_set_v 0x1A r v

/-- Opcode 0 is NOP's, which uses no field: any field set beside it makes the word illegal (44_endpoint.md R114). -/
theorem decode_illegal_of_opcode_zero {w : CmdWord} (hop : w.toNat < 0x0400) (hw : w ≠ 0x0000) :
    ∃ why, decode w = .illegal why := by
  have hpos : w.toNat ≠ 0 := fun h => hw (BitVec.eq_of_toNat_eq h)
  have hzero : w.toNat / 1024 = 0 := by omega
  refine (wordIllegalExactlyWhen w).2 ?_
  simp only [hzero, List.mem_cons, List.not_mem_nil, or_false]
  omega

/-! ### Control, configuration, MAKE and MATCH -/

theorem Format.code_eq (f : Format) : f.code = if f = .legacy then 1 else 0 := by
  cases f <;> rfl

theorem makeDst_eq (din : Bytes) : makeDst din = fit8 (din.take 8) := by
  rw [makeDst, slice_min_right, slice_zero]

theorem makePayload_eq (din : Bytes) : makePayload din = (din.drop 8).take 1024 := by
  rw [makePayload, slice_min_left, slice_min_right, slice_eq_take_drop, Nat.add_sub_cancel_left, Config.maxPayload_eq]

section
variable (r : PReg) (v : Bool) (s : State)

/-- 44_endpoint.md R114. -/
theorem exec_nop : exec .nop s = .next (s.answered .ok 0 []) := by
  rw [exec, execNop, respondOk_eq_answered]

/-- 44_endpoint.md R115. -/
theorem exec_cfgSetAddr : exec .cfgSetAddr s = .next ({ s with cfgAddr := fit8 s.din }.answered .ok 0 []) := by
  rw [exec, execCfgSetAddr, respondOk_eq_answered]

/-- 44_endpoint.md R116. -/
theorem exec_cfgSetPort :
    exec .cfgSetPort s = .next ({ s with cfgPort := clampN 8 s.arg.toInt }.answered .ok 0 []) := by
  rw [exec, execCfgSetPort, respondOk_eq_answered, clamp8_intArg]

/-- 44_endpoint.md R117: the scan ends whatever the format was. -/
theorem exec_cfgSetFmt : exec (.cfgSetFmt v) s =
    .next ({ s with cfgFmt := Format.ofBit v, scanActive := false }.answered .ok 0 []) := by
  rw [exec, execCfgSetFmt, respondOk_eq_answered, State.endScan]

/-- 44_endpoint.md R118. -/
theorem exec_cfgGetAddr :
    exec .cfgGetAddr s = .next (s.answered .ok (trimlen s.cfgAddr) s.cfgAddr.bytes) := by
  rw [exec, execCfgGetAddr, respond_eq_answered]

/-- 44_endpoint.md R119. -/
theorem exec_cfgGetPort : exec .cfgGetPort s = .next (s.answered .ok s.cfgPort.toNat []) := by
  rw [exec, execCfgGetPort, respond_eq_answered]

/-- 44_endpoint.md R120. -/
theorem exec_cfgGetFmt :
    exec .cfgGetFmt s = .next (s.answered .ok (if s.cfgFmt = .legacy then 1 else 0) []) := by
  rw [exec, execCfgGetFmt, respond_eq_answered, Format.code_eq]

/-- 44_endpoint.md R121. -/
theorem exec_make : exec (.make r) s = .next ((s.writePreg r
    { valid := true, src := s.cfgAddr, dst := fit8 (s.din.take 8), port := s.cfgPort, flags := 0#8,
      pay := (s.din.drop 8).take 1024 }).answered .ok 0 []) := by
  rw [exec, execMake, respondOk_eq_answered, makeDst_eq, makePayload_eq]

/-- 44_endpoint.md R124. -/
theorem exec_matchFilter :
    exec (.matchFilter r) s = .next (s.answered .ok (matchVal s.toBlock (s.preg r)).toNat []) := by
  rw [exec, execMatchFilter, respond_eq_answered]

end

/-! ### RX -/

/-- 44_endpoint.md R125, its conditions in their order. -/
theorem exec_rx (r : PReg) (v : Bool) (s : State) : exec (.rx r v) s = .next
    (if s.din = [] then s.answered .nothing 0 []
    else if v = true ∧ ¬((parse s.din).dst = s.cfgAddr ∧ (parse s.din).port = s.cfgPort) then
      s.answered .discard (matchVal s.toBlock (parse s.din)).toNat []
    else if (parse s.din).valid then
      (s.writePreg r (parse s.din)).answered .ok (matchVal s.toBlock (parse s.din)).toNat []
    else (s.writePreg r emptyPkt).answered .empty (matchVal s.toBlock (parse s.din)).toNat []) := by
  have hfiltered : (v && !(matchVal s.toBlock (parse s.din)).getLsbD 2) = true ↔
      v = true ∧ ¬((parse s.din).dst = s.cfgAddr ∧ (parse s.din).port = s.cfgPort) := by
    rw [Bool.and_eq_true, Bool.not_eq_true', ← Bool.not_eq_true, matchVal_deliver_iff]
  simp only [exec, execRx, List.length_eq_zero_iff, hfiltered, respond_eq_answered]
  split
  · rfl
  · split
    · rfl
    · split
      · rfl
      · next hinvalid => rw [← parse_empty_of_invalid (Bool.eq_false_iff.2 hinvalid)]

/-- The two statuses by which RX says that it delivered, and at which the receive loops stop (44_endpoint.md R125 to
R127). -/
def Status.IsDelivery (st : Status) : Prop := st = .ok ∨ st = .empty

/-- A reception to be delivered is written to the register as it parses, the sentinel included. -/
theorem exec_rx_of_delivers {r : PReg} {v : Bool} {s : State} (h : s.toBlock.delivers v s.din) :
    ∃ st m, st.IsDelivery ∧ exec (.rx r v) s = .next ((s.writePreg r (parse s.din)).answered st m []) := by
  obtain ⟨hnonempty, hmatch⟩ := h
  rw [exec_rx, if_neg hnonempty, if_neg fun ⟨hv, hmiss⟩ => hmiss (hmatch hv)]
  split
  · exact ⟨_, _, .inl rfl, rfl⟩
  · next hinvalid =>
    rw [parse_empty_of_invalid (Bool.eq_false_iff.2 hinvalid)]
    exact ⟨_, _, .inr rfl, rfl⟩

/-- A reception that is not to be delivered is answered NOTHING or DISCARD, and nothing else happens. -/
theorem exec_rx_of_not_delivers {r : PReg} {v : Bool} {s : State} (h : ¬s.toBlock.delivers v s.din) :
    ∃ st m, ¬st.IsDelivery ∧ exec (.rx r v) s = .next (s.answered st m []) := by
  rw [exec_rx]
  split
  · exact ⟨_, _, by simp [Status.IsDelivery], rfl⟩
  · next hnonempty =>
    have hdiscard : v = true ∧ ¬((parse s.din).dst = s.cfgAddr ∧ (parse s.din).port = s.cfgPort) :=
      Classical.not_imp.1 fun hmatch => h ⟨hnonempty, hmatch⟩
    rw [if_pos hdiscard]
    exact ⟨_, _, by simp [Status.IsDelivery], rfl⟩

/-! ### The receive loops -/

/-- The part that the host gives of an over-long reception parses as the whole does (30_encoding.md R65,
40_codec.md R84). -/
theorem parse_take_dinMax (x : Bytes) : parse (x.take Config.dinMax) = parse x :=
  parse_take (by decide)

theorem Block.delivers_take_iff (b : Block) (v : Bool) (x : Bytes) :
    b.delivers v (x.take Config.dinMax) ↔ b.delivers v x := by
  simp [delivers, parse_take_dinMax]

theorem rxCommand_eq (v : Bool) (r : PReg) (x : Bytes) :
    rxCommand v r x = ⟨encode (.rx r v), 0, x.take Config.dinMax⟩ := by
  simp [rxCommand, assemble, ByteTerm.bytes]

section
variable {r : PReg} {v : Bool} {s : State} {x : Bytes}

theorem runCommand_rxCommand_of_exec {t : State}
    (h : exec (.rx r v) (s.accept (rxCommand v r x)) = .next t) :
    runCommand (rxCommand v r x) s = .next t.retire := by
  rw [rxCommand_eq] at h ⊢
  exact runCommand_of_exec (List.length_take_le _ _) h

theorem accept_rxCommand_delivers_iff :
    (s.accept (rxCommand v r x)).toBlock.delivers v (s.accept (rxCommand v r x)).din ↔ s.toBlock.delivers v x := by
  rw [State.accept_toBlock, State.accept_din, rxCommand_eq, Block.delivers_take_iff]

/-- One round of the loop that delivers, at the port. -/
theorem runCommand_rxCommand_of_delivers (h : s.toBlock.delivers v x) : ∃ st m, st.IsDelivery ∧
    runCommand (rxCommand v r x) s = .next ((s.writePreg r (parse x)).answered st m []).retire := by
  obtain ⟨st, m, hst, hexec⟩ := exec_rx_of_delivers (r := r) (accept_rxCommand_delivers_iff (r := r).2 h)
  have hparse : parse (s.accept (rxCommand v r x)).din = parse x := by
    rw [State.accept_din, rxCommand_eq, parse_take_dinMax]
  rw [hparse] at hexec
  refine ⟨st, m, hst, (runCommand_rxCommand_of_exec hexec).trans ?_⟩
  cases r <;> rfl

/-- One round of the loop that delivers nothing, at the port. -/
theorem runCommand_rxCommand_of_not_delivers (h : ¬s.toBlock.delivers v x) : ∃ st m, ¬st.IsDelivery ∧
    runCommand (rxCommand v r x) s = .next (s.answered st m []).retire := by
  obtain ⟨st, m, hst, hexec⟩ := exec_rx_of_not_delivers (r := r) (mt accept_rxCommand_delivers_iff.1 h)
  exact ⟨st, m, hst, (runCommand_rxCommand_of_exec hexec).trans rfl⟩

/-- A reception to be delivered ends the loop. -/
theorem receiveLoop_cons_of_delivers (h : s.toBlock.delivers v x) (rest : List Bytes) : ∃ st m,
    receiveLoop v r (x :: rest) s = .delivered ((s.writePreg r (parse x)).answered st m []).retire rest := by
  obtain ⟨st, m, hst, hrun⟩ := runCommand_rxCommand_of_delivers (r := r) h
  refine ⟨st, m, ?_⟩
  simp only [receiveLoop, hrun, State.retire_lastStatus, State.answered_lastStatus, Option.some.injEq]
  exact if_pos hst

/-- A reception that is not to be delivered is passed over. -/
theorem receiveLoop_cons_of_not_delivers (h : ¬s.toBlock.delivers v x) : ∃ st m, ∀ rest,
    receiveLoop v r (x :: rest) s = receiveLoop v r rest (s.answered st m []).retire := by
  obtain ⟨st, m, hst, hrun⟩ := runCommand_rxCommand_of_not_delivers (r := r) h
  refine ⟨st, m, fun rest => ?_⟩
  simp only [receiveLoop, hrun, State.retire_lastStatus, State.answered_lastStatus, Option.some.injEq]
  exact if_neg hst

end

/-- Receptions that are not to be delivered leave the block as it is, and the loop goes on with what comes after. -/
theorem receiveLoop_append_of_not_delivers {v : Bool} (r : PReg) {pre : List Bytes} {s : State}
    (h : ∀ x ∈ pre, ¬s.toBlock.delivers v x) :
    ∃ t, t.toBlock = s.toBlock ∧ ∀ rest, receiveLoop v r (pre ++ rest) s = receiveLoop v r rest t := by
  induction pre generalizing s with
  | nil => exact ⟨s, rfl, fun _ => rfl⟩
  | cons x xs ih =>
    obtain ⟨hx, hxs⟩ := List.forall_mem_cons.1 h
    obtain ⟨st, m, hpassed⟩ := receiveLoop_cons_of_not_delivers (r := r) hx
    obtain ⟨t, ht, hloop⟩ := ih (s := (s.answered st m []).retire) hxs
    exact ⟨t, ht, fun rest => (hpassed _).trans (hloop rest)⟩

/-! ### The statements -/

/-- Settles O46: the receptions before the first to be delivered are passed over, by induction, and leave the block as
it was; the next round then writes the register. -/
theorem receiveLoopDeliversFirst : Obligations.ReceiveLoopDeliversFirst := by
  unfold Obligations.ReceiveLoopDeliversFirst
  intro v r pre rest b s hpre
  obtain ⟨t, hblock, hloop⟩ := receiveLoop_append_of_not_delivers r hpre
  refine ⟨⟨t, ?_, hblock⟩, fun hb => ?_⟩
  · simpa [receiveLoop] using hloop []
  · obtain ⟨st, m, hdelivered⟩ := receiveLoop_cons_of_delivers (r := r) (s := t) (hblock ▸ hb) rest
    refine ⟨_, (hloop _).trans hdelivered, ?_, ?_, ?_, ?_, ?_⟩
    · simp
    · rw [State.retire_preg, State.answered_preg, State.writePreg_preg_ne t r.other_ne, State.preg_congr hblock]
    · exact (t.writePreg_cfgAddr r _).trans (congrArg Block.cfgAddr hblock)
    · exact (t.writePreg_cfgPort r _).trans (congrArg Block.cfgPort hblock)
    · exact (t.writePreg_cfgFmt r _).trans (congrArg Block.cfgFmt hblock)

/-- Settles O21: an address is got back from its trimmed form by padding. -/
theorem trimmedComparisonIsRaw : Obligations.TrimmedComparisonIsRaw := by
  unfold Obligations.TrimmedComparisonIsRaw
  exact fun _ _ => trimmed_injective.eq_iff

/-- Settles O27: each bit is one summand's, and addresses are equal when their bytes are. -/
theorem matchBits : Obligations.MatchBits := by
  unfold Obligations.MatchBits
  intro b q
  obtain ⟨haddr, hport, -, hvalid⟩ := matchVal_getLsbD b q
  rw [← Addr.ext_iff, matchVal_deliver_iff, haddr, hport, beq_iff_eq, beq_iff_eq]
  exact ⟨.rfl, .rfl, .rfl, hvalid⟩

/-- Settles O28, from the answer of NOP and the rejection of every other word of opcode 0. -/
theorem nopOnlyAnswers : Obligations.NopOnlyAnswers := by
  unfold Obligations.NopOnlyAnswers
  exact ⟨by decide, exec_nop, fun _ => decode_illegal_of_opcode_zero⟩

/-- Settles O29: the words are evaluated, and each command writes its one register. -/
theorem configurationWrites : Obligations.ConfigurationWrites := by
  unfold Obligations.ConfigurationWrites
  exact ⟨by decide, by decide, by decide, by decide, fun s =>
    ⟨exec_cfgSetAddr s, exec_cfgSetPort s, exec_cfgSetFmt false s, exec_cfgSetFmt true s⟩⟩

/-- Settles O30: the words are evaluated, and each command answers what it reads. -/
theorem configurationReads : Obligations.ConfigurationReads := by
  unfold Obligations.ConfigurationReads
  exact ⟨by decide, by decide, by decide, fun s => ⟨exec_cfgGetAddr s, exec_cfgGetPort s, exec_cfgGetFmt s⟩⟩

/-- Settles O33: the operands cut to `din` are its first eight bytes and the rest. -/
theorem makeStampsPacket : Obligations.MakeStampsPacket := by
  unfold Obligations.MakeStampsPacket
  exact ⟨by decide, by decide, fun s => ⟨exec_make .p0 s, exec_make .p1 s⟩⟩

/-- Settles O44: MATCH answers the filter's value on the register as it is. -/
theorem matchReportsFilter : Obligations.MatchReportsFilter := by
  unfold Obligations.MatchReportsFilter
  exact ⟨by decide, by decide, fun s r => exec_matchFilter r s⟩

/-- Settles O45, by the write to each register. -/
theorem rxDeliversOrDiscards : Obligations.RxDeliversOrDiscards := by
  unfold Obligations.RxDeliversOrDiscards
  exact ⟨encode_rx (by decide), encode_rx (by decide), fun s v => ⟨exec_rx .p0 v s, exec_rx .p1 v s⟩⟩

end Sys2Proof.Machine
end

section
/-! SUPPORT. Proofs about the block having no exceptions (60_exceptions.md): the one step that stops, the state held
between commands, and the state read back by the side-effect-free commands. -/

namespace Sys2Proof.Machine

/-! ### The step that stops (60_exceptions.md R129) -/

/-- Reset is released and the host's next event is a command that cannot be issued (93_implementation_defined.md P9). -/
def State.FacesTooLongDin (s : State) : Prop :=
  s.inReset = false ∧ ∃ c rest, s.inbox = .command c :: rest ∧ 65535 < c.din.length

theorem runCommand_of_tooLong {c : Command} (h : 65535 < c.din.length) (s : State) :
    runCommand c s = .refused .dinTooLong := if_pos h

theorem step_of_facesTooLongDin {s : State} (h : s.FacesTooLongDin) : step s = .refused .dinTooLong := by
  obtain ⟨hreset, c, rest, hbox, hlong⟩ := h
  rw [step_of_inbox_command hreset hbox, runCommand_of_tooLong hlong]

/-- While reset is asserted every event is taken, and while it is released every event but a command is. -/
theorem hostEvent_next {e : HostEvent} {s : State}
    (h : s.inReset = false → ∀ c, e = .command c → c.din.length ≤ 65535) : ∃ t, hostEvent e s = .next t := by
  cases e with
  | command c =>
    cases hreset : s.inReset with
    | true => exact ⟨s, if_pos hreset⟩
    | false =>
      obtain ⟨b, x, hrun⟩ := runCommand_eq_advanced (h hreset c rfl) s
      exact ⟨_, (if_neg (Bool.eq_false_iff.1 hreset)).trans (hrun s rfl)⟩
  | assertReset | assertResetDuring c => exact ⟨_, rfl⟩
  | releaseReset =>
    rw [hostEvent]
    split
    · exact ⟨_, rfl⟩
    · exact ⟨_, rfl⟩

theorem step_next_of_not_facesTooLongDin {s : State} (h : ¬s.FacesTooLongDin) : ∃ t, step s = .next t := by
  cases hbox : s.inbox with
  | nil => exact ⟨s, step_of_inbox_nil hbox⟩
  | cons e rest =>
    rw [step_of_inbox_cons hbox]
    refine hostEvent_next fun hreset c hc => Nat.not_lt.1 fun hlong => h ⟨hreset, c, rest, ?_, hlong⟩
    rw [hbox, hc]

/-! ### The state held between commands (60_exceptions.md R142) -/

/-- A step that changes nothing is repeated for ever. -/
theorem core_run_of_step_self {s : State} (h : step s = .next s) (n : Nat) : Host.Core.run core n s = .next s := by
  induction n with
  | zero => rfl
  | succ n ih => exact (core_run_succ_of_next h).trans ih

/-! ### The state read back (60_exceptions.md R141) -/

/-- The side-effect-free commands all give the same response on `s` and on `s'`. -/
def ReadsAlike (s s' : State) : Prop :=
  ∀ (i : Instr) (t t' : State) (x x' : Response), i.readOnly = true →
    exec i s = .next t → t.responses = s.responses ++ [x] →
    exec i s' = .next t' → t'.responses = s'.responses ++ [x'] → x = x'

namespace ReadsAlike
variable {s s' : State} {i : Instr} {st st' : Status} {v v' : Nat} {d d' : Bytes}

theorem response_eq (h : ReadsAlike s s') (hi : i.readOnly = true) (hs : exec i s = .next (s.answered st v d))
    (hs' : exec i s' = .next (s'.answered st' v' d')) :
    BitVec.ofNat 32 v = BitVec.ofNat 32 v' ∧ d = d' := by
  have hx := h i _ _ _ _ hi hs rfl hs' rfl
  exact ⟨congrArg Response.rval hx, congrArg Response.dout hx⟩

theorem dout_eq (h : ReadsAlike s s') (hi : i.readOnly = true) (hs : exec i s = .next (s.answered st v d))
    (hs' : exec i s' = .next (s'.answered st' v' d')) : d = d' :=
  (h.response_eq hi hs hs').2

/-- `rval` tells apart any two numbers of at most 32 bits. -/
theorem number_eq (h : ReadsAlike s s') (hi : i.readOnly = true) (hs : exec i s = .next (s.answered st v d))
    (hs' : exec i s' = .next (s'.answered st' v' d')) (hv : v < 2 ^ 32) (hv' : v' < 2 ^ 32) : v = v' := by
  have hmod := congrArg BitVec.toNat (h.response_eq hi hs hs').1
  rwa [BitVec.toNat_ofNat, BitVec.toNat_ofNat, Nat.mod_eq_of_lt hv, Nat.mod_eq_of_lt hv'] at hmod

/-- A byte given as `rval`. -/
theorem byte_eq {b b' : Byte} (h : ReadsAlike s s') (hi : i.readOnly = true)
    (hs : exec i s = .next (s.answered st b.toNat d)) (hs' : exec i s' = .next (s'.answered st' b'.toNat d')) :
    b = b' :=
  BitVec.eq_of_toNat_eq (h.number_eq hi hs hs' (b.isLt.trans (by decide)) (b'.isLt.trans (by decide)))

/-- One bit, given as the `rval` 1 or 0. -/
theorem bit_iff {p p' : Prop} [Decidable p] [Decidable p'] (h : ReadsAlike s s') (hi : i.readOnly = true)
    (hs : exec i s = .next (s.answered st (if p then 1 else 0) d))
    (hs' : exec i s' = .next (s'.answered st' (if p' then 1 else 0) d')) : p ↔ p' := by
  have hbit := h.number_eq hi hs hs' (by split <;> decide) (by split <;> decide)
  calc p ↔ (if p then 1 else 0) ≠ 0 := by simp
    _ ↔ (if p' then 1 else 0) ≠ 0 := by rw [hbit]
    _ ↔ p' := by simp

/-- The accessors read back every field of a packet register (41_packet.md R93 to R98, 42_flags.md R101). -/
theorem preg_eq (h : ReadsAlike s s') (r : PReg) : s.preg r = s'.preg r := by
  obtain ⟨-, -, -, -, -, -, -, hreads⟩ := fieldAccessors
  obtain ⟨hsrc, hdst, hport, hflags, -, hpay, hvalid⟩ := hreads s r
  obtain ⟨hsrc', hdst', hport', hflags', -, hpay', hvalid'⟩ := hreads s' r
  exact Packet.ext (Bool.eq_iff_iff.2 (h.bit_iff rfl hvalid hvalid')) (Addr.ext (h.dout_eq rfl hsrc hsrc'))
    (Addr.ext (h.dout_eq rfl hdst hdst')) (h.byte_eq rfl hport hport') (h.byte_eq rfl hflags hflags')
    (h.dout_eq rfl hpay hpay')

theorem cfgAddr_eq (h : ReadsAlike s s') : s.cfgAddr = s'.cfgAddr :=
  Addr.ext (h.dout_eq rfl (exec_cfgGetAddr s) (exec_cfgGetAddr s'))

theorem cfgPort_eq (h : ReadsAlike s s') : s.cfgPort = s'.cfgPort :=
  h.byte_eq rfl (exec_cfgGetPort s) (exec_cfgGetPort s')

theorem cfgFmt_eq (h : ReadsAlike s s') : s.cfgFmt = s'.cfgFmt := by
  have hlegacy : s.cfgFmt = .legacy ↔ s'.cfgFmt = .legacy := h.bit_iff rfl (exec_cfgGetFmt s) (exec_cfgGetFmt s')
  cases hf : s.cfgFmt with
  | legacy => exact (hlegacy.1 hf).symm
  | structured =>
    cases hf' : s'.cfgFmt with
    | structured => rfl
    | legacy => exact hf.symm.trans (hlegacy.2 hf')

/-- XSTAT's number is twice SCAN_OFF and the bit SCAN_ACTIVE, so it gives both (43_group.md R109). -/
theorem cursor_eq (h : ReadsAlike s s') : s.scanActive = s'.scanActive ∧ s.scanOff = s'.scanOff := by
  have hoff := s.scanOff.isLt
  have hoff' := s'.scanOff.isLt
  have hactive := s.scanActive.toNat_lt
  have hactive' := s'.scanActive.toNat_lt
  have hnumber := h.number_eq rfl (exec_xstat s) (exec_xstat s') (by omega) (by omega)
  exact ⟨bool_eq_of_toNat_eq (by omega), BitVec.eq_of_toNat_eq (by omega)⟩

theorem toBlock_eq (h : ReadsAlike s s') : s.toBlock = s'.toBlock := by
  obtain ⟨hactive, hoff⟩ := h.cursor_eq
  exact Block.ext (h.preg_eq .p0) (h.preg_eq .p1) h.cfgAddr_eq h.cfgPort_eq h.cfgFmt_eq hactive hoff

end ReadsAlike

/-! ### The statements -/

/-- Settles O13: the too long `din` is refused, and every other event, or none, gives a next state. -/
theorem stepStopsExactlyOnTooLongDin : Obligations.StepStopsExactlyOnTooLongDin := by
  unfold Obligations.StepStopsExactlyOnTooLongDin
  intro s
  by_cases hfaces : s.FacesTooLongDin
  · have hstep := step_of_facesTooLongDin hfaces
    exact ⟨.inr hstep, fun _ => hfaces, fun _ => hstep⟩
  · obtain ⟨t, ht⟩ := step_next_of_not_facesTooLongDin hfaces
    refine ⟨.inl ⟨t, ht⟩, fun hrefused => ?_, fun h => absurd h hfaces⟩
    cases ht.symm.trans hrefused

/-- Settles O57: each field of the block is the response of one reading command, or a part of it. -/
theorem stateIsFullyReadable : Obligations.StateIsFullyReadable := by
  unfold Obligations.StateIsFullyReadable
  exact fun _ _ => ReadsAlike.toBlock_eq

/-- Settles O9, by repeating the step with nothing pending. -/
theorem idleBlockHoldsState : Obligations.IdleBlockHoldsState := by
  unfold Obligations.IdleBlockHoldsState
  exact fun _ n hidle => core_run_of_step_self (step_of_inbox_nil hidle) n

end Sys2Proof.Machine
end

section
/-! SUPPORT. Proofs about reset and the start of use (70_reset_and_hazards.md): what the reset input does to the block, to
the commands presented meanwhile and to the one it interrupts, and the configuration steps, which commute. -/

namespace Sys2Proof.Machine

/-! ### Reset asserted, held and released (70_reset_and_hazards.md R143, R144) -/

/-- Reset is asserted: every piece of the block's state has its reset value, and the host has these events to come and
these responses so far (log 8). -/
def State.heldInReset (events : List HostEvent) (given : List Response) : State :=
  { State.reset with inReset := true, inbox := events, responses := given }

section
variable {s : State} {c : Command} {rest : List HostEvent} {given : List Response}

theorem step_of_inbox_assertReset (hbox : s.inbox = .assertReset :: rest) :
    step s = .next (State.heldInReset rest s.responses) :=
  step_of_inbox_cons hbox

/-- The interrupted command plays no part in the next state. -/
theorem step_of_inbox_assertResetDuring (hbox : s.inbox = .assertResetDuring c :: rest) :
    step s = .next (State.heldInReset rest s.responses) :=
  step_of_inbox_cons hbox

/-- A command presented while reset is asserted is taken from the host and turned away (log 6). -/
theorem step_heldInReset_command :
    step (State.heldInReset (.command c :: rest) given) = .next (State.heldInReset rest given) := by
  rw [step_of_inbox_cons rfl]
  rfl

theorem step_heldInReset_releaseReset :
    step (State.heldInReset (.releaseReset :: rest) given) =
      .next { State.reset with inbox := rest, responses := given } := by
  rw [step_of_inbox_cons rfl]
  rfl

end

/-- However many commands the host presents while reset is asserted, the release finds the responses as they were. -/
theorem core_run_heldInReset (cs : List Command) (rest : List HostEvent) (given : List Response) :
    Host.Core.run core (cs.length + 1) (State.heldInReset (cs.map .command ++ .releaseReset :: rest) given) =
      .next { State.reset with inbox := rest, responses := given } := by
  induction cs with
  | nil => exact core_run_succ_of_next step_heldInReset_releaseReset
  | cons c cs ih => exact (core_run_succ_of_next step_heldInReset_command).trans ih

/-! ### Commands whose order does not matter -/

/-- From every state both orders of the two commands complete, and in the same state. -/
def Command.Commutes (c d : Command) : Prop :=
  ∀ s, ∃ t u v, runCommand c s = .next t ∧ runCommand d t = .next v ∧ runCommand d s = .next u ∧ runCommand c u = .next v

theorem Command.Commutes.symm {c d : Command} (h : Command.Commutes c d) : Command.Commutes d c := by
  intro s
  obtain ⟨t, u, v, hc, hcd, hd, hdc⟩ := h s
  exact ⟨u, t, v, hd, hdc, hc, hcd⟩

/-- Commands that commute in pairs may be issued in any order. -/
theorem runCommands_eq_of_perm {cs ds : List Command} (hperm : cs.Perm ds) (hcomm : cs.Pairwise Command.Commutes)
    (s : State) : runCommands cs s = runCommands ds s := by
  induction hperm generalizing s with
  | nil => rfl
  | cons c _ ih =>
    simp only [runCommands]
    cases runCommand c s with
    | next t => exact ih hcomm.of_cons t
    | fault | refused => rfl
  | swap c d cs =>
    obtain ⟨t, u, v, hd, hdc, hc, hcd⟩ := List.rel_of_pairwise_cons hcomm List.mem_cons_self s
    rw [runCommands_cons_of_next hd, runCommands_cons_of_next hdc, runCommands_cons_of_next hc,
      runCommands_cons_of_next hcd]
  | trans hfirst _ ih ih' =>
    exact (ih hcomm s).trans (ih' ((hfirst.pairwise_iff Command.Commutes.symm).1 hcomm) s)

/-! ### The configuration steps (70_reset_and_hazards.md R145) -/

/-- From every state the command answers OK, 0 and no bytes, and does `f` to the block. -/
def Command.Updates (c : Command) (f : Block → Block) : Prop :=
  ∀ s : State, runCommand c s = .next (s.advanced (f s.toBlock) { status := .ok, rval := 0, dout := [] }).retire

/-- Updates that commute on the block commute at the port, for their responses are the same. -/
theorem Command.Updates.commutes {c d : Command} {f g : Block → Block} (hc : Command.Updates c f)
    (hd : Command.Updates d g) (hfg : Function.Commute g f) : Command.Commutes c d := by
  refine fun s => ⟨_, _, _, hc s, hd _, hd s, (hc _).trans ?_⟩
  simp only [State.retire_toBlock, State.advanced_toBlock, hfg s.toBlock]
  rfl

/-- A command's update, from what it does with its own operands on the channels. -/
theorem Command.updates_of_exec {i : Instr} {a : Word} {d : Bytes} {f : Block → Block} (hd : d.length ≤ 65535)
    (h : ∀ s : State, s.arg = a → s.din = d → exec i s = .next ({ s with toBlock := f s.toBlock }.answered .ok 0 [])) :
    Command.Updates ⟨encode i, a, d⟩ f := fun s =>
  (runCommand_of_exec hd (h (s.accept ⟨encode i, a, d⟩) rfl rfl)).trans rfl

/-- Step 1 of R145. -/
theorem cfgSetAddr_updates {addr : Bytes} (haddr : addr.length ≤ 65535) :
    Command.Updates (assemble { instr := .cfgSetAddr, din := some [.hex addr] })
      fun b => { b with cfgAddr := fit8 addr } := by
  have hcommand : assemble { instr := .cfgSetAddr, din := some [.hex addr] } = ⟨encode .cfgSetAddr, 0, addr⟩ := by
    simp [assemble, ByteTerm.bytes]
  rw [hcommand]
  exact Command.updates_of_exec haddr fun s _ hdin => hdin ▸ exec_cfgSetAddr s

/-- Step 2 of R145: a port of 32 bits stands on `arg` as it is. -/
theorem cfgSetPort_updates {port : Int} (hlow : -2 ^ 31 ≤ port) (hhigh : port < 2 ^ 31) :
    Command.Updates (assemble { instr := .cfgSetPort, arg := some port })
      fun b => { b with cfgPort := clampN 8 port } := by
  refine Command.updates_of_exec (Nat.zero_le _) fun s harg _ => ?_
  have hport : s.arg.toInt = port := harg ▸ BitVec.toInt_ofInt_eq_self (by decide) hlow hhigh
  exact hport ▸ exec_cfgSetPort s

/-- Step 3 of R145. -/
theorem cfgSetFmt_updates (v : Bool) : Command.Updates (assemble { instr := .cfgSetFmt v })
    fun b => { b with cfgFmt := Format.ofBit v, scanActive := false } :=
  Command.updates_of_exec (Nat.zero_le _) fun s _ _ => exec_cfgSetFmt v s

section
variable {addr : Bytes} {port : Int} (haddr : addr.length ≤ 65535) (hlow : -2 ^ 31 ≤ port) (hhigh : port < 2 ^ 31)
include haddr hlow hhigh

/-- No configuration step reads or writes another's register, so any two of them commute. -/
theorem configure_pairwise_commutes (legacy : Bool) : (configure addr port legacy).Pairwise Command.Commutes := by
  have haddrPort := (cfgSetAddr_updates haddr).commutes (cfgSetPort_updates hlow hhigh) fun _ => rfl
  have haddrFmt := (cfgSetAddr_updates haddr).commutes (cfgSetFmt_updates true) fun _ => rfl
  have hportFmt := (cfgSetPort_updates hlow hhigh).commutes (cfgSetFmt_updates true) fun _ => rfl
  cases legacy with
  | false => simp [configure, haddrPort]
  | true => simp [configure, haddrPort, haddrFmt, hportFmt]

/-- The configuration in the order in which R145 lists its steps. -/
theorem runCommands_configure (legacy : Bool) (s : State) :
    ∃ t, runCommands (configure addr port legacy) s = .next t ∧ t.cfgAddr = fit8 addr ∧ t.cfgPort = clampN 8 port ∧
      t.cfgFmt = (if legacy then .legacy else s.cfgFmt) ∧ t.p0 = s.p0 ∧ t.p1 = s.p1 ∧ t.scanOff = s.scanOff := by
  have hsetAddr := fun cs => runCommands_cons_of_next (cs := cs) (cfgSetAddr_updates haddr s)
  have hsetPort := fun cs s => runCommands_cons_of_next (cs := cs) (cfgSetPort_updates hlow hhigh s)
  have hsetFmt := fun s => runCommands_cons_of_next (cs := []) (cfgSetFmt_updates true s)
  cases legacy with
  | false => exact ⟨_, (hsetAddr _).trans (hsetPort [] _), rfl, rfl, rfl, rfl, rfl, rfl⟩
  | true => exact ⟨_, (hsetAddr _).trans ((hsetPort _ _).trans (hsetFmt _)), rfl, rfl, rfl, rfl, rfl, rfl⟩

end

/-! ### The statements -/

/-- Settles O11: asserting reset loads the reset values, and each command presented before the release is turned away. -/
theorem resetAcceptsNothingAndRestoresAll : Obligations.ResetAcceptsNothingAndRestoresAll := by
  unfold Obligations.ResetAcceptsNothingAndRestoresAll
  intro s cs rest hbox
  exact (core_run_succ_of_next (step_of_inbox_assertReset hbox)).trans (core_run_heldInReset cs rest s.responses)

/-- Settles O12: the interrupting event is reset with no command presented before the release. -/
theorem interruptedCommandLeavesNothing : Obligations.InterruptedCommandLeavesNothing := by
  unfold Obligations.InterruptedCommandLeavesNothing
  intro s c rest hbox
  exact (core_run_succ_of_next (step_of_inbox_assertResetDuring hbox)).trans (core_run_heldInReset [] rest s.responses)

/-- Settles O31: the steps commute, so any order of them ends as the listed one does. -/
theorem configureInAnyOrder : Obligations.ConfigureInAnyOrder := by
  unfold Obligations.ConfigureInAnyOrder
  intro addr port legacy cs s haddr hlow hhigh hperm
  have hsame := runCommands_eq_of_perm hperm.symm (configure_pairwise_commutes haddr hlow hhigh legacy) s
  exact hsame ▸ runCommands_configure haddr hlow hhigh legacy s

end Sys2Proof.Machine
end
